-- ==== Sys2Proof/Word.lean ====
section
/-! DEFINITION. The two word types of the block's interface: a host register (R30, R81) and a bus transaction (R140). -/

namespace Sys2Proof

/-- A host register, a command word, an operand or a result: 64 bits, bit 0 least significant (R13, R30, R81). -/
abbrev Word := BitVec 64

/-- A bus transaction as R140 writes it: `[67]` RW, `[66:64]` IDX, `[63:0]` DATA. -/
abbrev BusWord := BitVec 68

end Sys2Proof
end

