-- ==== Sys2Proof/Syntax.lean ====
section
/-! DEFINITION. The syntax of the block's instructions: the eleven commands of R120 with the three fields of their command
word (R110), and the two bus transactions of R140. One constructor of `Instr` per row of the opcode table. -/

namespace Sys2Proof

/-- The `FMT` field (R112). -/
inductive Fmt where
  /-- FMT = 0, the narrower format. -/
  | binary32
  /-- FMT = 1, the wider format. -/
  | binary64
  deriving DecidableEq, Repr

/-- The `RMODE` field (R113): five rounding policies and the three reserved values, which stay apart so that the encoding
keeps every bit. -/
inductive RMode where
  /-- 0, nearest-to-even. -/
  | rne
  /-- 1, nearest-toward-zero. -/
  | rtz
  /-- 2, nearest-downward. -/
  | rdn
  /-- 3, nearest-upward. -/
  | rup
  /-- 4, nearest-fast. -/
  | fast
  /-- The reserved value 5. -/
  | reserved5
  /-- The reserved value 6. -/
  | reserved6
  /-- The reserved value 7. -/
  | reserved7
  deriving DecidableEq, Repr

/-- The values 5 to 7 of RMODE are reserved (R113, R123). -/
def RMode.isReserved : RMode → Bool
  | .rne => false
  | .rtz => false
  | .rdn => false
  | .rup => false
  | .fast => false
  | .reserved5 => true
  | .reserved6 => true
  | .reserved7 => true

/-- The `CPOL` field, the case policy (R114, R310). -/
inductive CasePolicy where
  /-- CPOL = 0, ASSERT_FINITE, the production default. -/
  | assertFinite
  /-- CPOL = 1, IGNORE (debug only). -/
  | ignore
  deriving DecidableEq, Repr

/-- The eight registers of the host register bank, by the 3-bit index `IDX` (R30). -/
inductive HostReg where
  /-- 0 -/
  | cmd
  /-- 1 -/
  | opa
  /-- 2 -/
  | opb
  /-- 3 -/
  | opc
  /-- 4 -/
  | res0
  /-- 5 -/
  | res1
  /-- 6 -/
  | res2
  /-- 7 -/
  | status
  deriving DecidableEq, Repr

/-- The instructions: a command word's `OP` with the three fields that every command word carries, whether or not the
command uses them (R110, R116, R120); and the two bus transactions (R140). -/
inductive Instr where
  /-- OP 0x01 (R325). -/
  | convert (fmt : Fmt) (rmode : RMode) (cpol : CasePolicy)
  /-- OP 0x02 (R315). -/
  | classify (fmt : Fmt) (rmode : RMode) (cpol : CasePolicy)
  /-- OP 0x03 (R295). -/
  | policy (fmt : Fmt) (rmode : RMode) (cpol : CasePolicy)
  /-- OP 0x10 (R155). -/
  | mulw (fmt : Fmt) (rmode : RMode) (cpol : CasePolicy)
  /-- OP 0x11 (R157). -/
  | mulwhi (fmt : Fmt) (rmode : RMode) (cpol : CasePolicy)
  /-- OP 0x12 (R160). -/
  | mul192 (fmt : Fmt) (rmode : RMode) (cpol : CasePolicy)
  /-- OP 0x20 (R175). -/
  | flog10p2 (fmt : Fmt) (rmode : RMode) (cpol : CasePolicy)
  /-- OP 0x21 (R177). -/
  | flog2p10 (fmt : Fmt) (rmode : RMode) (cpol : CasePolicy)
  /-- OP 0x30 (R195). -/
  | cache (fmt : Fmt) (rmode : RMode) (cpol : CasePolicy)
  /-- OP 0x40 (R240). -/
  | ivcmp (fmt : Fmt) (rmode : RMode) (cpol : CasePolicy)
  /-- OP 0x41 (R245). -/
  | isprodint (fmt : Fmt) (rmode : RMode) (cpol : CasePolicy)
  /-- RW = 1: the host writes `data` to register `idx` (R140). -/
  | busWrite (idx : HostReg) (data : Word)
  /-- RW = 0: the host reads register `idx` (R140). -/
  | busRead (idx : HostReg)
  deriving DecidableEq, Repr

end Sys2Proof
end

