-- ==== Sys2Proof/WellFormed.lean ====
section
/-! DEFINITION. Which instructions use no reserved encoding. The types of `Instr`'s fields bound every field already; what
is left to check is R123 case 1: a reserved `RMODE` in a command that uses `RMODE`. Such a word is a legal command word
(it selects its row of the table, R125) and `exec` has a meaning for it: BAD_OPERAND. -/

namespace Sys2Proof

/-- No reserved RMODE in a command that uses RMODE (R123 case 1; the "uses RMODE" column of R120). -/
def Instr.wellFormed : Instr → Bool
  | .convert _ rmode _ => !rmode.isReserved
  | .classify _ _ _ => true
  | .policy _ rmode _ => !rmode.isReserved
  | .mulw _ _ _ => true
  | .mulwhi _ _ _ => true
  | .mul192 _ _ _ => true
  | .flog10p2 _ _ _ => true
  | .flog2p10 _ _ _ => true
  | .cache _ _ _ => true
  | .ivcmp _ rmode _ => !rmode.isReserved
  | .isprodint _ _ _ => true
  | .busWrite _ _ => true
  | .busRead _ => true

end Sys2Proof
end

