-- ==== Sys2Proof/Decode.lean ====
section
/-! DEFINITION. Decoding and encoding of command words (R110 to R126) and bus transactions (R140). Decoding is total and
rejects by name; every bit of a word is read. -/

namespace Sys2Proof

/-- Why a word is no instruction. -/
inductive DecodeError where
  /-- `OP` is none of the eleven values of R120 (R111, R124). -/
  | undefinedOp (op : BitVec 8)
  /-- A bit of `[63:13]` is set (R115, R124). -/
  | reservedBits (bits : BitVec 51)
  /-- A read transaction whose `DATA` is not 0 (R140: "A read transaction carries `DATA = 0` outbound"). -/
  | readCarriesData (data : Word)
  deriving DecidableEq, Repr

/-- A word of either of the two formats of the opcode table: a command word (R110) or a bus transaction (R140). -/
inductive CodeWord where
  | cmd (w : Word)
  | txn (t : BusWord)
  deriving DecidableEq, Repr

/-! ## The fields -/

/-- `LCMD[7:0]` (R111). -/
def opField (w : Word) : BitVec 8 := w.extractLsb' 0 8

/-- `LCMD[8]` (R112). -/
def fmtField (w : Word) : Fmt := if w.getLsbD 8 then .binary64 else .binary32

/-- The meaning of the three RMODE bits (R113). -/
def rmodeOfBits (r : BitVec 3) : RMode :=
  match r.toNat with
  | 0 => .rne
  | 1 => .rtz
  | 2 => .rdn
  | 3 => .rup
  | 4 => .fast
  | 5 => .reserved5
  | 6 => .reserved6
  | _ => .reserved7

/-- `LCMD[11:9]` (R113). -/
def rmodeField (w : Word) : RMode := rmodeOfBits (w.extractLsb' 9 3)

/-- `LCMD[12]` (R114). -/
def cpolField (w : Word) : CasePolicy := if w.getLsbD 12 then .ignore else .assertFinite

/-- `LCMD[63:13]`, which must be 0 (R115). -/
def reservedField (w : Word) : BitVec 51 := w.extractLsb' 13 51

/-- The register that `IDX` names; every value names one (R30, R89). -/
def regOfIdx (i : BitVec 3) : HostReg :=
  match i.toNat with
  | 0 => .cmd
  | 1 => .opa
  | 2 => .opb
  | 3 => .opc
  | 4 => .res0
  | 5 => .res1
  | 6 => .res2
  | _ => .status

/-! ## Decoding -/

/-- The command that an `OP` value selects, with its fields (R120). -/
def commandOfOp (op : BitVec 8) (fmt : Fmt) (rmode : RMode) (cpol : CasePolicy) : Option Instr :=
  match op.toNat with
  | 0x01 => some (.convert fmt rmode cpol)
  | 0x02 => some (.classify fmt rmode cpol)
  | 0x03 => some (.policy fmt rmode cpol)
  | 0x10 => some (.mulw fmt rmode cpol)
  | 0x11 => some (.mulwhi fmt rmode cpol)
  | 0x12 => some (.mul192 fmt rmode cpol)
  | 0x20 => some (.flog10p2 fmt rmode cpol)
  | 0x21 => some (.flog2p10 fmt rmode cpol)
  | 0x30 => some (.cache fmt rmode cpol)
  | 0x40 => some (.ivcmp fmt rmode cpol)
  | 0x41 => some (.isprodint fmt rmode cpol)
  | _ => none

/-- Decoding of a command word (R111, R115, R124). Both errors are the one fault ILLEGAL_COMMAND, so their order is not
observable. -/
def decodeCmd (w : Word) : Except DecodeError Instr :=
  match commandOfOp (opField w) (fmtField w) (rmodeField w) (cpolField w) with
  | none => .error (.undefinedOp (opField w))
  | some i => if reservedField w = 0 then .ok i else .error (.reservedBits (reservedField w))

/-- Decoding of a bus transaction (R140). -/
def decodeTxn (t : BusWord) : Except DecodeError Instr :=
  let idx := regOfIdx (t.extractLsb' 64 3)
  let data : Word := t.extractLsb' 0 64
  if t.getLsbD 67 then .ok (.busWrite idx data)
  else if data = 0 then .ok (.busRead idx)
  else .error (.readCarriesData data)

/-- Decoding of a word of either format. -/
def decode : CodeWord → Except DecodeError Instr
  | .cmd w => decodeCmd w
  | .txn t => decodeTxn t

/-- The instruction read from a word numbered as the opcode table numbers it: a command word where the row has 64 bits, a
bus transaction where it has more (68). The interface is whole words numbered by bit, so no byte order enters (R82). -/
def decodeTableWord (nbits w : Nat) : Option Instr :=
  if nbits ≤ 64 then
    if w < 2 ^ 64 then (decodeCmd (BitVec.ofNat 64 w)).toOption else none
  else
    if w < 2 ^ 68 then (decodeTxn (BitVec.ofNat 68 w)).toOption else none

/-! ## Encoding -/

/-- The bit of a format (R112). -/
def fmtBits : Fmt → BitVec 1
  | .binary32 => 0
  | .binary64 => 1

/-- The bits of a rounding policy (R113). -/
def rmodeBits : RMode → BitVec 3
  | .rne => 0
  | .rtz => 1
  | .rdn => 2
  | .rup => 3
  | .fast => 4
  | .reserved5 => 5
  | .reserved6 => 6
  | .reserved7 => 7

/-- The bit of a case policy (R114). -/
def cpolBits : CasePolicy → BitVec 1
  | .assertFinite => 0
  | .ignore => 1

/-- The index of a host register (R30). -/
def idxBits : HostReg → BitVec 3
  | .cmd => 0
  | .opa => 1
  | .opb => 2
  | .opc => 3
  | .res0 => 4
  | .res1 => 5
  | .res2 => 6
  | .status => 7

/-- The command word `zext_64(CPOL, RMODE, FMT, OP)` of R143. -/
def commandWord (op : BitVec 8) (fmt : Fmt) (rmode : RMode) (cpol : CasePolicy) : Word :=
  (0 : BitVec 51) ++ cpolBits cpol ++ rmodeBits rmode ++ fmtBits fmt ++ op

/-- The word of an instruction (R110, R120, R140). -/
def encode : Instr → CodeWord
  | .convert fmt rmode cpol => .cmd (commandWord 0x01 fmt rmode cpol)
  | .classify fmt rmode cpol => .cmd (commandWord 0x02 fmt rmode cpol)
  | .policy fmt rmode cpol => .cmd (commandWord 0x03 fmt rmode cpol)
  | .mulw fmt rmode cpol => .cmd (commandWord 0x10 fmt rmode cpol)
  | .mulwhi fmt rmode cpol => .cmd (commandWord 0x11 fmt rmode cpol)
  | .mul192 fmt rmode cpol => .cmd (commandWord 0x12 fmt rmode cpol)
  | .flog10p2 fmt rmode cpol => .cmd (commandWord 0x20 fmt rmode cpol)
  | .flog2p10 fmt rmode cpol => .cmd (commandWord 0x21 fmt rmode cpol)
  | .cache fmt rmode cpol => .cmd (commandWord 0x30 fmt rmode cpol)
  | .ivcmp fmt rmode cpol => .cmd (commandWord 0x40 fmt rmode cpol)
  | .isprodint fmt rmode cpol => .cmd (commandWord 0x41 fmt rmode cpol)
  | .busWrite idx data => .txn ((1 : BitVec 1) ++ idxBits idx ++ data)
  | .busRead idx => .txn ((0 : BitVec 1) ++ idxBits idx ++ (0 : Word))

/-! ## The rows of the opcode table (R125) -/

/-- The mask of every command row (R125). -/
def commandMask : Word := 0xFFFFFFFFFFFFE0FF

/-- The `match` values of the eleven command rows (R120, R125). -/
def commandMatches : List Word :=
  [0x01, 0x02, 0x03, 0x10, 0x11, 0x12, 0x20, 0x21, 0x30, 0x40, 0x41]

end Sys2Proof
end

