-- ==== Sys2Proof/Machine/Format.lean ====
section
/-! DEFINITION. The format descriptor of R10: the parameters of binary32 and binary64, under the spec's names. -/

namespace Sys2Proof

/-- `W`, the total bit width (R10). -/
def Fmt.width : Fmt → Nat
  | .binary32 => 32
  | .binary64 => 64

/-- `p`, the stored mantissa bits (R10). -/
def Fmt.precision : Fmt → Nat
  | .binary32 => 23
  | .binary64 => 52

/-- `EW`, the width of the exponent field: `W - 1 - p` (R10). -/
def Fmt.expWidth (fmt : Fmt) : Nat := fmt.width - 1 - fmt.precision

/-- `BIAS` (R10). -/
def Fmt.bias : Fmt → Nat
  | .binary32 => 127
  | .binary64 => 1023

/-- `XP`, the extended precision `p + 1` (R10). -/
def Fmt.extPrecision (fmt : Fmt) : Nat := fmt.precision + 1

/-- `EMIN`, the binary exponent of a subnormal: `1 - BIAS - p` (R10, R304). -/
def Fmt.eMin (fmt : Fmt) : Int := 1 - (fmt.bias : Int) - (fmt.precision : Int)

/-- `EMAXF`, the largest binary exponent of a finite value: `2^EW - 2 - BIAS - p` (R10, R304). -/
def Fmt.eMaxF (fmt : Fmt) : Int := 2 ^ fmt.expWidth - 2 - (fmt.bias : Int) - (fmt.precision : Int)

/-- `ALPHA`, the same for both formats (R10). -/
def alpha : Int := 1

/-- `GAMMA`, the same for both formats (R10). -/
def gamma : Int := 4

/-- `Q`, the cache precision in bits (R10, R84). -/
def Fmt.cachePrecision : Fmt → Nat
  | .binary32 => 64
  | .binary64 => 128

/-- `MIN_K`, the least index of the cache ROM (R10, R191). -/
def Fmt.minK : Fmt → Int
  | .binary32 => -31
  | .binary64 => -292

/-- `MAX_K`, the greatest index of the cache ROM (R10, R191). -/
def Fmt.maxK : Fmt → Int
  | .binary32 => 45
  | .binary64 => 324

/-- `KAPPA0`, the initial kappa (R10, R254). -/
def Fmt.kappa0 : Fmt → Int
  | .binary32 => 4
  | .binary64 => 7

/-- `L_UP`, the lambdas of the upward phase (R10, R254, C1). -/
def Fmt.lambdaUp : Fmt → List Int
  | .binary32 => [4, 2, 1]
  | .binary64 => [8, 4, 2, 1]

/-- `L_DOWN`, the lambdas of the downward phase (R10, R254, C1). -/
def Fmt.lambdaDown : Fmt → List Int
  | .binary32 => [4, 2, 1]
  | .binary64 => [4, 2, 1]

/-- `KMIN` (R10, R255). -/
def kMin : Int := -1

/-- `KMAX` (R10, R255). -/
def Fmt.kMax : Fmt → Int
  | .binary32 => 8
  | .binary64 => 16

/-- `MK_MAX`, the largest minus_k at which the scaled upper boundary can be an integer (R10, R236). No rule's effect reads
it; it is the bound of a property. -/
def Fmt.mkMax : Fmt → Nat
  | .binary32 => 10
  | .binary64 => 23

end Sys2Proof
end

