-- ==== Sys2Proof/Config.lean ====
section
/-! DEFINITION. What an implementation fixes or the spec leaves open: the parameter `ELOG_RANGE` (R11), the parameter
`HOST_BYTE_ORDER` (R82), and the free values that `draw()` answers (R15, R322). -/

namespace Sys2Proof.Config

/-- `ELOG_RANGE`, the bound on the estimators' argument, at the spec's default (R11, C12). Every rule that tests the bound
reads this name, never the number. DESIGN CHOICE (log entry 5). -/
def elogRange : Nat := 65536

/-- The two values of the parameter `HOST_BYTE_ORDER` (R82, D32). -/
inductive ByteOrder where
  | little
  | big
  deriving DecidableEq, Repr, Inhabited

/-- `HOST_BYTE_ORDER`: OPEN in the spec, and read by no rule (R82, P1): a platform's choice. No definition of the model
reads it either (log entry 6). -/
opaque hostByteOrder : ByteOrder

/-- The value of the `n`-th `draw()` since the model began (R15, R322, U1): unspecified, under no law. It has no body, so
nothing can be proved of it (log entry 4). -/
opaque freeDraw (n : Nat) : Word

end Sys2Proof.Config
end

