-- ==== Sys2Proof/Machine/State.lean ====
section
/-! DEFINITION. The state of the block: the host register bank (R30 to R35), the sequencer (R45), the internal registers
(R50 to R58), and the model's own record of the environment (log entries 2, 3, 4). The cache ROM is constant (R60, R85)
and is no field (log entry 7). -/

namespace Sys2Proof.Machine

/-- An internal register. After reset it is *unwritten* (R50, R380), and that it is so stays in the state until a step
writes it. Every register holds a value all the same: which one an unwritten register holds is log entry 1. -/
inductive Latch (α : Type) where
  /-- No step has written the register since reset; `v` is the value that it holds at reset. -/
  | unwritten (v : α)
  /-- A step has written `v`. -/
  | holds (v : α)
  deriving DecidableEq, Repr

/-- The sequencer's control state `SEQ` (R45): the step it performs next. -/
inductive SeqState where
  | idle
  | exec
  | cvScale
  | cvInit
  | cvUp
  | cvDown
  | cvSettle
  | cvTail
  | faulted
  deriving DecidableEq, Repr

/-- `BUSY = 1` exactly in these states (R45). -/
def SeqState.busy : SeqState → Bool
  | .idle => false
  | .exec => true
  | .cvScale => true
  | .cvInit => true
  | .cvUp => true
  | .cvDown => true
  | .cvSettle => true
  | .cvTail => true
  | .faulted => false

/-- The block's fault codes (R340). Codes 5 to 15 are never raised (U14). -/
inductive FaultCode where
  /-- 0: no fault has occurred since reset. -/
  | none
  /-- 1 -/
  | illegalCommand
  /-- 2 -/
  | badOperand
  /-- 3 -/
  | notFiniteNonzero
  /-- 4 -/
  | range
  deriving DecidableEq, Repr

/-- The written fields of STATUS (R34); its reserved bits are hardwired and not stored. -/
structure Status where
  busy : Bool
  done : Bool
  fault : Bool
  ovr : Bool
  fcode : FaultCode
  fop : BitVec 8
  deriving DecidableEq, Repr

/-- The host register bank (R30). -/
structure Bank where
  /-- The last accepted command word (R31). -/
  cmd : Word
  opa : Word
  opb : Word
  opc : Word
  res0 : Word
  res1 : Word
  res2 : Word
  status : Status
  deriving DecidableEq, Repr

/-- The latched command and operands (R52). -/
structure Latched where
  lcmd : Latch Word
  la : Latch Word
  lb : Latch Word
  lc : Latch Word
  deriving DecidableEq, Repr

/-- The classes of a bit pattern (R301). -/
inductive FpClass where
  | zero
  | subnormal
  | normal
  | inf
  | nan
  deriving DecidableEq, Repr

/-- The classification registers (R53). `EBF` and `F` are held in the wider format's width. -/
structure ClassRegs where
  sgn : Latch Bool
  cls : Latch FpClass
  ebf : Latch (BitVec 11)
  f : Latch (BitVec 53)
  e : Latch Int
  edge : Latch Bool
  deriving DecidableEq, Repr

/-- The containment flags (R54), the scale registers (R55) and the datapath values (R56). -/
structure ScaleRegs where
  cl : Latch Bool
  cr : Latch Bool
  k0 : Latch Int
  beta : Latch (BitVec 3)
  cent : Latch (BitVec 128)
  z : Latch ℚ
  delta : Latch ℚ
  deriving DecidableEq, Repr

/-- The values of `MEMO` (R57). -/
inductive Memo where
  | notCompared
  | z2Larger
  | z2Smaller
  | z2Same
  deriving DecidableEq, Repr

/-- The search registers (R58). -/
structure SearchRegs where
  kappa : Latch Int
  lidx : Latch Nat
  kq : Latch Int
  sig : Latch Word
  deriving DecidableEq, Repr

/-- What the environment does next (R91, R381, R395): the model's own type (log entry 2). -/
inductive Event where
  /-- The host performs a bus transaction (R140). -/
  | txn (t : BusWord)
  /-- The sequencer takes its turn. -/
  | sequencer
  /-- The platform's reset signal (R381). -/
  | reset
  deriving DecidableEq, Repr

/-- The model's own fields: no state of the block (log entries 2, 3, 4). -/
structure Environment where
  /-- The events still to come, first one first. When it is empty the sequencer alone goes on. -/
  inbox : List Event
  /-- What the last read transaction returned to the host (R140). -/
  resp : Option Word
  /-- How many `draw()` values have been taken (R15). -/
  draws : Nat
  deriving DecidableEq, Repr

/-- The whole state. -/
structure State where
  bank : Bank
  seq : SeqState
  latched : Latched
  cls : ClassRegs
  scale : ScaleRegs
  memo : Memo
  search : SearchRegs
  env : Environment
  deriving DecidableEq, Repr

/-- Why the MODEL stops. None of these is a fault of the block (those are `FaultCode`s and lead to a next state); no state
that meets the model's invariant raises one. All are safe: the model stops where the spec says no run goes. -/
inductive Fault where
  /-- `CV_UP` or `CV_DOWN` with `LIDX` past the end of the lambda list (R58 bounds it). Safe. -/
  | lambdaIndex
  /-- `MemRead` outside `[MIN_K, MAX_K]`, which "never happens" (R86). Raised where the scale registers are formed. Safe. -/
  | romIndex
  /-- `CV_SCALE` with a reserved RMODE latched: the EXEC step has already refused such a word (R290, R321). Safe. -/
  | reservedMode
  deriving DecidableEq, Repr

/-- Why a step has no meaning. -/
inductive Refusal where
  /-- An instruction whose meaning is not written yet; no arm uses it. Safe. -/
  | notModelled (mnemonic : String)
  /-- A 68-bit word that is no transaction of R140: a read that carries DATA. Raised by the host's step. Safe: the model
  stops (log entry 13). -/
  | notATransaction (t : BusWord)
  deriving DecidableEq, Repr

/-- STATUS after reset: all fields 0 (R34, R380). -/
def Status.reset : Status :=
  ⟨false, false, false, false, .none, 0⟩

/-- The machine right after reset (R380), with an environment in which nothing has happened yet (log entries 2, 3, 4). The
internal registers but MEMO are unwritten; the values they hold are a DESIGN CHOICE, unsafe (log entry 1). -/
def State.reset : State where
  bank := ⟨0, 0, 0, 0, 0, 0, 0, Status.reset⟩
  seq := .idle
  latched := ⟨.unwritten 0, .unwritten 0, .unwritten 0, .unwritten 0⟩
  cls := ⟨.unwritten false, .unwritten .zero, .unwritten 0, .unwritten 0, .unwritten 0, .unwritten false⟩
  scale := ⟨.unwritten false, .unwritten false, .unwritten 0, .unwritten 0, .unwritten 0, .unwritten 0, .unwritten 0⟩
  memo := .notCompared
  search := ⟨.unwritten 0, .unwritten 0, .unwritten 0, .unwritten 0⟩
  env := ⟨[], none, 0⟩

end Sys2Proof.Machine
end

