-- ==== Sys2Proof/Machine/Operands.lean ====
section
/-! DEFINITION. How an operand register is read and a result is written (R121, R122), and what a bit pattern means: its
fields, class, significand, exponent and edge flag (R300 to R303). -/

namespace Sys2Proof.Machine

/-! ## Signed and unsigned words -/

/-- `sext_64`, a register read as a signed operand (R14, R122). -/
def sext64 (w : Word) : Int := w.toInt

/-- `tc64`, a signed result (R14, R122). -/
def tc64 (i : Int) : Word := BitVec.ofInt 64 i

/-- A one-bit result, zero-extended (R121). -/
def bitWord (b : Bool) : Word := (0 : BitVec 63) ++ BitVec.ofBool b

/-! ## Bit patterns -/

/-- A bit-pattern operand of its format: for binary32 the upper 32 bits are 0 (R122, R123 case 2). -/
def patternFits (fmt : Fmt) (b : Word) : Bool :=
  match fmt with
  | .binary32 => b.extractLsb' 32 32 == 0
  | .binary64 => true

/-- The sign `s = b[W-1]` (R300). -/
def signOf (fmt : Fmt) (b : Word) : Bool := b.getLsbD (fmt.width - 1)

/-- The biased exponent field `Eb = b[W-2:p]` (R300). -/
def expFieldOf (fmt : Fmt) (b : Word) : Nat := b.toNat / 2 ^ fmt.precision % 2 ^ fmt.expWidth

/-- The mantissa field `m = b[p-1:0]` (R300). -/
def mantissaOf (fmt : Fmt) (b : Word) : Nat := b.toNat % 2 ^ fmt.precision

/-- The class of a pattern with these fields (R301). -/
def classOf (fmt : Fmt) (eb m : Nat) : FpClass :=
  if eb = 0 then
    if m = 0 then .zero else .subnormal
  else if eb = 2 ^ fmt.expWidth - 1 then
    if m = 0 then .inf else .nan
  else .normal

/-- The extended significand `f` (R302). -/
def significandOf (fmt : Fmt) (eb m : Nat) : Nat :=
  if eb = 0 then m else m + 2 ^ fmt.precision

/-- The binary exponent `e` (R302). -/
def exponentOf (fmt : Fmt) (eb : Nat) : Int :=
  if eb = 0 then 1 - (fmt.bias : Int) - (fmt.precision : Int)
  else (eb : Int) - (fmt.bias : Int) - (fmt.precision : Int)

/-- The edge case (R303). -/
def edgeOf (eb m : Nat) : Bool := decide (m = 0) && decide (1 < eb)

/-- SUBNORMAL or NORMAL: a finite nonzero value (R301, R310). -/
def FpClass.finiteNonzero : FpClass → Bool
  | .zero => false
  | .subnormal => true
  | .normal => true
  | .inf => false
  | .nan => false

/-- What the classification of a pattern yields (R300 to R303): the contents of the registers of R53. -/
structure Classified where
  sgn : Bool
  cls : FpClass
  ebf : BitVec 11
  f : BitVec 53
  e : Int
  edge : Bool
  deriving DecidableEq, Repr

/-- `classify(b)` (R300 to R303, R320). -/
def classifyPattern (fmt : Fmt) (b : Word) : Classified :=
  let eb := expFieldOf fmt b
  let m := mantissaOf fmt b
  { sgn := signOf fmt b
    cls := classOf fmt eb m
    ebf := BitVec.ofNat 11 eb
    f := BitVec.ofNat 53 (significandOf fmt eb m)
    e := exponentOf fmt eb
    edge := edgeOf eb m }

end Sys2Proof.Machine
end

