-- ==== Sys2Proof/Machine/Exact.lean ====
section
/-! DEFINITION. The exact arithmetic of the datapath, over the integers and the rationals (R13, R16, R218): the multiply
primitives, the estimators, the cache ROM, the rounding interval scaled into the decimal range, and the exact-integer
test. -/

namespace Sys2Proof.Machine

/-! ## Extended-precision multiply (R150 to R152) -/

/-- `multiply_wide(a, b)` as `(hi, lo)` (R150). -/
def multiplyWide (a b : Word) : Word × Word :=
  let product := a.toNat * b.toNat
  (BitVec.ofNat 64 (product / 2 ^ 64), BitVec.ofNat 64 (product % 2 ^ 64))

/-- `multiply_wide_upper(a, b)` (R151). -/
def multiplyWideUpper (a b : Word) : Word := BitVec.ofNat 64 (a.toNat * b.toNat / 2 ^ 64)

/-- `multiply_wide192_upper128(a, (bHi, bLo))` as `(uHi, uLo)` (R152). -/
def multiplyWide192Upper128 (a bHi bLo : Word) : Word × Word :=
  let top := a.toNat * (bHi.toNat * 2 ^ 64 + bLo.toNat) / 2 ^ 64
  (BitVec.ofNat 64 (top / 2 ^ 64), BitVec.ofNat 64 (top % 2 ^ 64))

/-- The 32-bit limb form of `multiply_wide` (R154): one permitted realisation, which no command calls; a statement says that
it agrees with `multiplyWide`. -/
def multiplyWideLimbs (a b : Word) : Nat × Nat :=
  let a1 := a.toNat / 2 ^ 32
  let a0 := a.toNat % 2 ^ 32
  let b1 := b.toNat / 2 ^ 32
  let b0 := b.toNat % 2 ^ 32
  let p00 := a0 * b0
  let p01 := a0 * b1
  let p10 := a1 * b0
  let p11 := a1 * b1
  let mid := p00 / 2 ^ 32 + p01 % 2 ^ 32 + p10 % 2 ^ 32
  (p11 + p01 / 2 ^ 32 + p10 / 2 ^ 32 + mid / 2 ^ 32, mid % 2 ^ 32 * 2 ^ 32 + p00 % 2 ^ 32)

/-! ## The estimators (R170) -/

/-- The greatest `n` with `b^n <= c^e`, for `b` and `c` 2 and 10 in either order. For a negative `e` that is the reflection
of R173: `c^(-e)` is no power of `b`, so the floor is one below the negated floor. -/
def floorLogPow (b c : Nat) : Int → Int
  | .ofNat e => (Nat.log b (c ^ e) : Int)
  | .negSucc e => -(Nat.log b (c ^ (e + 1)) : Int) - 1

/-- `floor_log10_pow2(e)` (R170). -/
def floorLog10Pow2 (e : Int) : Int := floorLogPow 10 2 e

/-- `floor_log2_pow10(e)` (R170). -/
def floorLog2Pow10 (e : Int) : Int := floorLogPow 2 10 e

/-! ## The cache ROM (R84, R190) -/

/-- The entry `c(k)` as a number: the `Q`-bit truncation of `10^k` (R190). -/
def cacheEntry (fmt : Fmt) (k : Int) : Int :=
  ⌊(10 : ℚ) ^ k * (2 : ℚ) ^ ((fmt.cachePrecision : Int) - 1 - floorLog2Pow10 k)⌋

/-- The contents of the ROM, constant (R84, R85, R190): the whole entry in the wider format's width. -/
def romEntry (fmt : Fmt) (k : Int) : BitVec 128 := BitVec.ofInt 128 (cacheEntry fmt k)

/-- `k` is an index of the ROM of `fmt` (R84, R191). -/
def romIndexOk (fmt : Fmt) (k : Int) : Bool := decide (fmt.minK ≤ k) && decide (k ≤ fmt.maxK)

/-- `MemRead(ROM_fmt, k)` (R84), which has no answer outside the index range (R86). -/
def memRead (fmt : Fmt) (k : Int) : Option (BitVec 128) :=
  if romIndexOk fmt k then some (romEntry fmt k) else none

/-! ## The rounding interval and its scaling (R210 to R216) -/

/-- `w+`, the upper edge of the rounding interval (R210). -/
def upperEdge (f : Nat) (e : Int) : ℚ := (2 * (f : ℚ) + 1) * 2 ^ (e - 1)

/-- `w-`, the lower edge of the rounding interval (R210). -/
def lowerEdge (f : Nat) (e : Int) (edge : Bool) : ℚ :=
  if edge then (4 * (f : ℚ) - 1) * 2 ^ (e - 2) else (2 * (f : ℚ) - 1) * 2 ^ (e - 1)

/-- `K0` (R212). -/
def decimalScale (e : Int) : Int := floorLog10Pow2 (e + 1 - alpha)

/-- `BETA` as an integer (R213). -/
def betaOf (e : Int) : Int := e + floorLog2Pow10 (-decimalScale e) + 1

/-- `Z`, the scaled upper boundary (R214). -/
def scaledUpper (f : Nat) (e k0 : Int) : ℚ := (2 * (f : ℚ) + 1) * 2 ^ (e - 1) * 10 ^ (-k0)

/-- `DELTA`, the scaled interval width (R215, R260). -/
def scaledWidth (e k0 : Int) (edge : Bool) : ℚ :=
  (if edge then 3 * (2 : ℚ) ^ (e - 2) else (2 : ℚ) ^ e) * 10 ^ (-k0)

/-- `cand(kappa)` (R216). -/
def candidate (z : ℚ) (kappa : Int) : Int := ⌊z / 10 ^ kappa⌋

/-- `r(kappa)` (R216). -/
def remainder (z : ℚ) (kappa : Int) : ℚ := z - (candidate z kappa : ℚ) * 10 ^ kappa

/-! ## The exact-integer test (R230) -/

/-- `v2` by halving, with fuel. -/
def v2Fuel : Nat → Nat → Nat
  | 0, _ => 0
  | fuel + 1, n => if n % 2 = 0 then v2Fuel fuel (n / 2) + 1 else 0

/-- `v2(n)`, the largest `t` with `2^t` dividing `n`, for `n != 0` (R14). -/
def v2 (n : Nat) : Nat := v2Fuel (Nat.log 2 n) n

/-- `f mod 5^m = 0` for `f != 0`, asked only where `5^m` can be at most `f` (R230, R245: "`5^m` for `m > 27` exceeds every
nonzero `f`"). -/
def pow5Divides (m f : Nat) : Bool := decide (m ≤ Nat.log 5 f) && decide (f % 5 ^ m = 0)

/-- `is_product_integer(f, x, m)` (R230). -/
def isProductInteger (f : Nat) (x m : Int) : Bool :=
  if f = 0 then true
  else if 0 ≤ m then pow5Divides m.toNat f && decide (0 ≤ (v2 f : Int) + x - m)
  else decide (0 ≤ (v2 f : Int) + x - m)

/-- `ZINT` (R231). -/
def zInt (f : Nat) (e k0 : Int) : Bool := isProductInteger (2 * f + 1) (e - 1) k0

end Sys2Proof.Machine
end

