-- ==== Sys2Proof/Machine/Flags.lean ====
section
/-! DEFINITION. The flags: the fields of STATUS as a word (R34), the containment flags (R290), the comparison with its
memoised tie-break (R217, R220), and the packed result words of CLASSIFY (R315), POLICY (R295) and IVCMP (R240). -/

namespace Sys2Proof.Machine

/-! ## STATUS -/

/-- The number of a fault code (R340). -/
def FaultCode.bits : FaultCode → BitVec 4
  | .none => 0
  | .illegalCommand => 1
  | .badOperand => 2
  | .notFiniteNonzero => 3
  | .range => 4

/-- What a read of STATUS returns (R34): bits [63:16] are hardwired 0. -/
def Status.word (st : Status) : Word :=
  (0 : BitVec 48) ++ st.fop ++ st.fcode.bits ++ BitVec.ofBool st.ovr ++ BitVec.ofBool st.fault ++
    BitVec.ofBool st.done ++ BitVec.ofBool st.busy

/-! ## Containment flags -/

/-- `policy(RMODE, s, f)` as `(CL, CR)` (R290); no answer for the reserved modes, which are BAD_OPERAND. -/
def policyOf (rmode : RMode) (sgn : Bool) (f : Nat) : Option (Bool × Bool) :=
  match rmode with
  | .rne => some (decide (f % 2 = 0), decide (f % 2 = 0))
  | .rtz => some (false, true)
  | .rdn => some (if sgn then (true, false) else (false, true))
  | .rup => some (if sgn then (false, true) else (true, false))
  | .fast => some (true, true)
  | .reserved5 => none
  | .reserved6 => none
  | .reserved7 => none

/-! ## The comparison -/

/-- The outcome of a comparison (R217). -/
inductive Cmp where
  | lt
  | eq
  | gt
  deriving DecidableEq, Repr

/-- `code(c)` of R240. -/
def Cmp.bits : Cmp → BitVec 2
  | .lt => 0
  | .eq => 1
  | .gt => 2

/-- The number of a `MEMO` value (R57). -/
def Memo.bits : Memo → BitVec 2
  | .notCompared => 0
  | .z2Larger => 1
  | .z2Smaller => 2
  | .z2Same => 3

/-- `is_z2_same_as_delta2` (R223). -/
def isZ2SameAsDelta2 (z delta : ℚ) : Bool := decide (Int.fract z = Int.fract delta)

/-- `is_delta_integer` (R223). -/
def isDeltaInteger (delta : ℚ) : Bool := decide (Int.fract delta = 0)

/-- The comparison of the fractions, from scratch (R220, R222). -/
def freshVerdict (z delta : ℚ) : Memo :=
  if isZ2SameAsDelta2 z delta then .z2Same
  else if Int.fract delta < Int.fract z then .z2Larger
  else .z2Smaller

/-- `MEMO` after the tie-break is consulted: computed once, then kept (R220). -/
def memoVerdict (z delta : ℚ) : Memo → Memo
  | .notCompared => freshVerdict z delta
  | .z2Larger => .z2Larger
  | .z2Smaller => .z2Smaller
  | .z2Same => .z2Same

/-- The verdict that a value of `MEMO` stands for (R220). -/
def Memo.cmp : Memo → Cmp
  | .notCompared => .eq
  | .z2Larger => .gt
  | .z2Smaller => .lt
  | .z2Same => .eq

/-- `compare(kappa)` with `MEMO` after it (R220). -/
def compareAt (z delta : ℚ) (memo : Memo) (kappa : Int) : Cmp × Memo :=
  if kappa < 0 then (.lt, memo)
  else
    let a := ⌊z⌋ % 10 ^ kappa.toNat
    let d := ⌊delta⌋
    if a < d then (.lt, memo)
    else if d < a then (.gt, memo)
    else
      let memo' := memoVerdict z delta memo
      (memo'.cmp, memo')

/-- The acceptance of a candidate, given the outcome of its comparison (R217). -/
def acceptOf (z : ℚ) (cl : Bool) (kappa : Int) (c : Cmp) : Bool :=
  decide (1 ≤ candidate z kappa) && (decide (c = .lt) || (decide (c = .eq) && cl))

/-- `accept(kappa)` inside a step, with `MEMO` after it (R217, R220; log entry 10). -/
def acceptAt (z delta : ℚ) (cl : Bool) (memo : Memo) (kappa : Int) : Bool × Memo :=
  let c := compareAt z delta memo kappa
  (acceptOf z cl kappa c.1, c.2)

/-! ## Packed result words -/

/-- The class codes (R301). -/
def FpClass.bits : FpClass → BitVec 3
  | .zero => 0
  | .subnormal => 1
  | .normal => 2
  | .inf => 3
  | .nan => 4

/-- CLASSIFY's class word (R315): `s` in bit 0, `edge` in bit 1, the class in [4:2], `Eb` in [31:16]. -/
def classWord (c : Classified) : Word :=
  (0 : BitVec 37) ++ c.ebf ++ (0 : BitVec 11) ++ c.cls.bits ++ BitVec.ofBool c.edge ++ BitVec.ofBool c.sgn

/-- POLICY's result: CL in bit 0, CR in bit 1 (R295). -/
def policyWord (cl cr : Bool) : Word := (0 : BitVec 62) ++ BitVec.ofBool cr ++ BitVec.ofBool cl

/-- IVCMP's comparison word (R240). -/
def compareWord (c : Cmp) (acc rZero edge cl cr : Bool) (beta : BitVec 3) (deltaFloor : Int) (zint : Bool) (memo : Memo) :
    Word :=
  (0 : BitVec 45) ++ memo.bits ++ BitVec.ofBool zint ++ BitVec.ofInt 4 deltaFloor ++ (0 : BitVec 1) ++ beta ++
    (0 : BitVec 1) ++ BitVec.ofBool cr ++ BitVec.ofBool cl ++ BitVec.ofBool edge ++ BitVec.ofBool rZero ++
    BitVec.ofBool acc ++ c.bits

end Sys2Proof.Machine
end

