-- ==== Sys2Proof/Machine/Ops.lean ====
section
/-! DEFINITION. The shared operations on the state: reading an internal register (R50), the register bank (R30 to R35),
acceptance and overrun of a command (R130, R352), completion (R47), the checks of the EXEC step (R321), fault entry (R346)
and reset, the only way out of a fault (R347, R380), and the writes of the internal register groups. -/

namespace Sys2Proof.Machine

/-- What a step answers. -/
abbrev Result := Host.Outcome State Fault Refusal

/-! ## Reading an internal register -/

/-- The value of an internal register: every read of one goes through this. An unwritten one has the value that it holds at
reset (log entry 1); no step of a run reads one (R50). -/
def Latch.val {α : Type} : Latch α → α
  | .unwritten v => v
  | .holds v => v

/-! ## The register bank -/

/-- `x[i]` (R30). -/
def Bank.get (b : Bank) : HostReg → Word
  | .cmd => b.cmd
  | .opa => b.opa
  | .opb => b.opb
  | .opc => b.opc
  | .res0 => b.res0
  | .res1 => b.res1
  | .res2 => b.res2
  | .status => b.status.word

/-- STATUS after a command is accepted (R130). -/
def Status.accepted (st : Status) : Status := { st with busy := true, done := false, ovr := false }

/-- STATUS after a dropped command (R352). -/
def Status.overrun (st : Status) : Status := { st with ovr := true }

/-- STATUS after a completion (R47). -/
def Status.completed (st : Status) : Status := { st with busy := false, done := true }

/-- STATUS after fault entry (R346). -/
def Status.faulted (st : Status) (code : FaultCode) (op : BitVec 8) : Status :=
  { st with fault := true, fcode := code, fop := op, busy := false, done := false }

/-- Acceptance of the command word `v` (R130, R52). -/
def accept (v : Word) (s : State) : State :=
  { s with
    bank := { s.bank with cmd := v, status := s.bank.status.accepted }
    latched := ⟨.holds v, .holds s.bank.opa, .holds s.bank.opb, .holds s.bank.opc⟩
    seq := .exec }

/-- Overrun: a command written while busy or faulted is dropped (R352). -/
def overrun (s : State) : State :=
  { s with bank := { s.bank with status := s.bank.status.overrun } }

/-- A host write of `CMD` (R31, R130, R352). -/
def requestCommand (v : Word) (s : State) : State :=
  if s.seq = .idle then accept v s else overrun s

/-- A host write (R30 to R35): operand registers take the value, a write of a read-only register is ignored. -/
def hostWrite (r : HostReg) (v : Word) (s : State) : State :=
  match r with
  | .cmd => requestCommand v s
  | .opa => { s with bank := { s.bank with opa := v } }
  | .opb => { s with bank := { s.bank with opb := v } }
  | .opc => { s with bank := { s.bank with opc := v } }
  | .res0 => s
  | .res1 => s
  | .res2 => s
  | .status => s

/-- A host read returns the register and has no side effect on the block (R35, R88, R140). -/
def hostRead (r : HostReg) (s : State) : State :=
  { s with env := { s.env with resp := some (s.bank.get r) } }

/-! ## Completion -/

/-- `complete(r0, r1, r2)` (R47). -/
def complete (r0 r1 r2 : Word) (s : State) : State :=
  { s with
    bank := { s.bank with res0 := r0, res1 := r1, res2 := r2, status := s.bank.status.completed }
    seq := .idle }

/-- `complete(draw(), draw(), draw())`: three fresh free values (R322; log entry 4). -/
def completeDrawn (s : State) : State :=
  complete (Config.freeDraw s.env.draws) (Config.freeDraw (s.env.draws + 1)) (Config.freeDraw (s.env.draws + 2))
    { s with env := { s.env with draws := s.env.draws + 3 } }

/-! ## Taking a fault, and reset -/

/-- The state after fault entry, for the latched command word `w` (R346). -/
def faultEntry (code : FaultCode) (w : Word) (s : State) : State :=
  { s with
    bank := { s.bank with status := s.bank.status.faulted code (opField w) }
    seq := .faulted }

/-- `raise Fault(code)` (R346). -/
def raiseFault (code : FaultCode) (s : State) : Result := .next (faultEntry code s.latched.lcmd.val s)

/-- The platform's reset signal, the only way out of `FAULTED` (R347, R380, R381). The block takes its reset state; the
environment, which is no part of the block, stays (log entry 15). -/
def applyReset (s : State) : State := { State.reset with env := s.env }

/-! ## The checks of the EXEC step -/

/-- The fault of the first check that fails, in the list's order (R321, R342). -/
def firstFault : List (Bool × FaultCode) → Option FaultCode
  | [] => none
  | (failed, code) :: rest => if failed then some code else firstFault rest

/-- Runs the checks; where all pass, and only there, goes on (R321). -/
def checked (checks : List (Bool × FaultCode)) (s : State) (k : Unit → Result) : Result :=
  match firstFault checks with
  | some code => raiseFault code s
  | none => k ()

/-- The failure conditions of BAD_OPERAND for a bit pattern, and of NOT_FINITE_NONZERO (R321 orders 2 and 3). -/
def notFiniteUnder (fmt : Fmt) (cpol : CasePolicy) (b : Word) : Bool :=
  decide (cpol = .assertFinite) && !(classifyPattern fmt b).cls.finiteNonzero

/-! ## Writing the groups of internal registers -/

/-- The classification registers holding a classification (R53). -/
def classRegs (c : Classified) : ClassRegs :=
  ⟨.holds c.sgn, .holds c.cls, .holds c.ebf, .holds c.f, .holds c.e, .holds c.edge⟩

/-- The writes of the classification (R53, R302). -/
def writeClass (c : Classified) (s : State) : State := { s with cls := classRegs c }

/-- The values of the scale step (R260, R240). -/
structure ScaleValues where
  cl : Bool
  cr : Bool
  k0 : Int
  beta : BitVec 3
  cent : BitVec 128
  z : ℚ
  delta : ℚ
  deriving DecidableEq, Repr

/-- The values of the scale step from a classified pattern (R260, R290, R212 to R215, R84). -/
def scaleOf (fmt : Fmt) (rmode : RMode) (sgn : Bool) (f : Nat) (e : Int) (edge : Bool) : Except Fault ScaleValues :=
  let k0 := decimalScale e
  match policyOf rmode sgn f, memRead fmt (-k0) with
  | none, _ => .error .reservedMode
  | some _, none => .error .romIndex
  | some (cl, cr), some c =>
    .ok { cl := cl
          cr := cr
          k0 := k0
          beta := BitVec.ofInt 3 (betaOf e)
          cent := c
          z := scaledUpper f e k0
          delta := scaledWidth e k0 edge }

/-- The flag, scale and datapath registers holding the values of a scale step (R54 to R56). -/
def scaleRegs (v : ScaleValues) : ScaleRegs :=
  ⟨.holds v.cl, .holds v.cr, .holds v.k0, .holds v.beta, .holds v.cent, .holds v.z, .holds v.delta⟩

/-- The writes of the scale step; `MEMO` starts at NOT_COMPARED (R260, R240). -/
def writeScale (v : ScaleValues) (s : State) : State := { s with scale := scaleRegs v, memo := .notCompared }

end Sys2Proof.Machine
end

