-- ==== Sys2Proof/Machine/DigitSearch.lean ====
section
/-! DEFINITION. The digit search state machine: the `CV_*` steps of CONVERT (R260 to R265), one definition each. Within a
step the pseudocode's lines take effect in their order (log entry 8). -/

namespace Sys2Proof.Machine

/-- Step `CV_SCALE` (R260). -/
def cvScale (s : State) : Result :=
  let w := s.latched.lcmd.val
  let sgn := s.cls.sgn.val
  let f := s.cls.f.val
  let e := s.cls.e.val
  let edge := s.cls.edge.val
  match scaleOf (fmtField w) (rmodeField w) sgn f.toNat e edge with
  | .error r => .fault r
  | .ok v =>
    .next
      { writeScale v s with
        search := { s.search with kappa := .holds (fmtField w).kappa0, lidx := .holds 0 }
        seq := .cvInit }

/-- Step `CV_INIT` (R261): the first comparison, which chooses the phase. -/
def cvInit (s : State) : Result :=
  let kappa := s.search.kappa.val
  let z := s.scale.z.val
  let delta := s.scale.delta.val
  let cl := s.scale.cl.val
  let a := acceptAt z delta cl s.memo kappa
  .next { s with memo := a.2, seq := if a.1 then .cvUp else .cvDown }

/-- The end of a lambda step: the kappa it leaves, the next index, and after the last lambda the settled kappa (R262,
R263). -/
def finishLambda (lambdas : List Int) (again : SeqState) (kappa : Int) (lidx : Nat) (settled : Int) (memo : Memo)
    (s : State) : State :=
  if lidx + 1 = lambdas.length then
    { s with
      memo := memo
      search := { s.search with kappa := .holds kappa, lidx := .holds (lidx + 1), kq := .holds settled }
      seq := .cvSettle }
  else
    { s with
      memo := memo
      search := { s.search with kappa := .holds kappa, lidx := .holds (lidx + 1) }
      seq := again }

/-- Step `CV_UP`, one lambda (R262): a step whose guard fails makes no comparison. -/
def cvUp (s : State) : Result :=
  let w := s.latched.lcmd.val
  let kappa := s.search.kappa.val
  let lidx := s.search.lidx.val
  let z := s.scale.z.val
  let delta := s.scale.delta.val
  let cl := s.scale.cl.val
  match (fmtField w).lambdaUp[lidx]? with
  | none => .fault .lambdaIndex
  | some lam =>
    let a := if kappa + lam ≤ (fmtField w).kMax then acceptAt z delta cl s.memo (kappa + lam) else (false, s.memo)
    let kappa' := if a.1 then kappa + lam else kappa
    .next (finishLambda (fmtField w).lambdaUp .cvUp kappa' lidx kappa' a.2 s)

/-- Step `CV_DOWN`, one lambda (R263): a step whose guard fails makes no comparison and does not move. -/
def cvDown (s : State) : Result :=
  let w := s.latched.lcmd.val
  let kappa := s.search.kappa.val
  let lidx := s.search.lidx.val
  let z := s.scale.z.val
  let delta := s.scale.delta.val
  let cl := s.scale.cl.val
  match (fmtField w).lambdaDown[lidx]? with
  | none => .fault .lambdaIndex
  | some lam =>
    let a := if kMin + 1 ≤ kappa - lam then acceptAt z delta cl s.memo (kappa - lam) else (true, s.memo)
    let kappa' := if a.1 then kappa else kappa - lam
    .next (finishLambda (fmtField w).lambdaDown .cvDown kappa' lidx (kappa' - 1) a.2 s)

/-- Step `CV_SETTLE` (R264): complete, or go to the tail where the candidate is the open right edge. -/
def cvSettle (s : State) : Result :=
  let kq := s.search.kq.val
  let z := s.scale.z.val
  let k0 := s.scale.k0.val
  let cr := s.scale.cr.val
  let sgn := s.cls.sgn.val
  let sig : Word := BitVec.ofInt 64 (candidate z kq)
  let s' := { s with search := { s.search with sig := .holds sig } }
  if !cr && decide (remainder z kq = 0) then .next { s' with seq := .cvTail }
  else .next (complete sig (tc64 (kq + k0)) (bitWord sgn) s')

/-- `T` of the tail (R259, R265). -/
def tailLimit (delta : ℚ) (cl : Bool) : Int :=
  if 1 < delta ∨ (delta = 1 ∧ cl = true) then 0 else -1

/-- Step `CV_TAIL` (R265). `Z / 10^ks` is an integer in every run (R259); its floor is taken (log entry 11). -/
def cvTail (s : State) : Result :=
  let kq := s.search.kq.val
  let z := s.scale.z.val
  let delta := s.scale.delta.val
  let cl := s.scale.cl.val
  let k0 := s.scale.k0.val
  let sgn := s.cls.sgn.val
  let ks := min kq (tailLimit delta cl)
  let sig : Word := BitVec.ofInt 64 (candidate z ks - 1)
  .next (complete sig (tc64 (ks + k0)) (bitWord sgn) { s with search := { s.search with sig := .holds sig } })

end Sys2Proof.Machine
end

