-- ==== Sys2Proof/Machine/Bus.lean ====
section
/-! DEFINITION. The two bus transactions (R140, R141): each is admitted in every state and completes in one step. -/

namespace Sys2Proof.Machine

/-- `BUS_WRITE` (R140, R30 to R35, R130, R352). -/
def execBusWrite (idx : HostReg) (data : Word) (s : State) : Result := .next (hostWrite idx data s)

/-- `BUS_READ` (R140, R35). -/
def execBusRead (idx : HostReg) (s : State) : Result := .next (hostRead idx s)

end Sys2Proof.Machine
end

