-- ==== Sys2Proof/Machine/Cache.lean ====
section
/-! DEFINITION. The EXEC step of CACHE (R195). -/

namespace Sys2Proof.Machine

/-- `CACHE` (R195): one ROM entry, a binary64 entry as its low and high words (R192). -/
def execCache (fmt : Fmt) (s : State) : Result :=
  let a := s.latched.la.val
  let k := sext64 a
  match memRead fmt k with
  | none => raiseFault .range s
  | some c =>
    match fmt with
    | .binary32 => .next (complete (c.extractLsb' 0 64) 0 0 s)
    | .binary64 => .next (complete (c.extractLsb' 0 64) (c.extractLsb' 64 64) 0 s)

end Sys2Proof.Machine
end

