-- ==== Sys2Proof/Machine/Comparator.lean ====
section
/-! DEFINITION. The EXEC steps of the interval containment comparator: IVCMP (R240) and ISPRODINT (R245). -/

namespace Sys2Proof.Machine

/-- `kappa` outside `[KMIN, KMAX]` (R240). -/
def outsideKappaRange (fmt : Fmt) (kappa : Int) : Bool := decide (kappa < kMin) || decide (fmt.kMax < kappa)

/-- The comparison that IVCMP makes once the scale values stand, and its completion (R240). -/
def compareAndComplete (c : Classified) (v : ScaleValues) (kappa : Int) (s : State) : State :=
  let cmp := compareAt v.z v.delta .notCompared kappa
  let w := compareWord cmp.1 (acceptOf v.z v.cl kappa cmp.1) (decide (remainder v.z kappa = 0)) c.edge v.cl v.cr v.beta
    ⌊v.delta⌋ (zInt c.f.toNat c.e v.k0) cmp.2
  complete (BitVec.ofInt 64 (candidate v.z kappa)) (tc64 v.k0) w { writeScale v s with memo := cmp.2 }

/-- `IVCMP` (R240): the checks of R321, the classification, then one comparison at the host's kappa. -/
def execIvcmp (fmt : Fmt) (rmode : RMode) (cpol : CasePolicy) (s : State) : Result :=
  let b := s.latched.la.val
  let kb := s.latched.lb.val
  let kappa := sext64 kb
  checked
    [ (rmode.isReserved, .badOperand),
      (!patternFits fmt b, .badOperand),
      (notFiniteUnder fmt cpol b, .notFiniteNonzero),
      (outsideKappaRange fmt kappa, .range) ] s fun _ =>
    (let c := classifyPattern fmt b
     let s' := writeClass c s
     if c.cls.finiteNonzero then
       match scaleOf fmt rmode c.sgn c.f.toNat c.e c.edge with
       | .error r => .fault r
       | .ok v => .next (compareAndComplete c v kappa s')
     else .next (completeDrawn s'))

/-- `ISPRODINT` (R245): total over all operands. -/
def execIsprodint (s : State) : Result :=
  let f := s.latched.la.val
  let x := s.latched.lb.val
  let m := s.latched.lc.val
  .next (complete (bitWord (isProductInteger f.toNat (sext64 x) (sext64 m))) 0 0 s)

end Sys2Proof.Machine
end

