-- ==== Sys2Proof/Machine/Convert.lean ====
section
/-! DEFINITION. The EXEC steps of CLASSIFY (R315) and CONVERT (R325). The further steps of CONVERT are in DigitSearch.lean. -/

namespace Sys2Proof.Machine

/-- `CLASSIFY` (R315): every class is reported; the internal registers are not written. -/
def execClassify (fmt : Fmt) (s : State) : Result :=
  let b := s.latched.la.val
  checked [(!patternFits fmt b, .badOperand)] s fun _ =>
    (let c := classifyPattern fmt b
     .next (complete (BitVec.ofNat 64 c.f.toNat) (tc64 c.e) (classWord c) s))

/-- The `EXEC` step of `CONVERT` (R320, R321, R325): the checks, the classification, then `CV_SCALE`; under IGNORE a zero,
infinity or NaN completes here with free values (R322). -/
def execConvert (fmt : Fmt) (rmode : RMode) (cpol : CasePolicy) (s : State) : Result :=
  let b := s.latched.la.val
  checked
    [ (rmode.isReserved, .badOperand),
      (!patternFits fmt b, .badOperand),
      (notFiniteUnder fmt cpol b, .notFiniteNonzero) ] s fun _ =>
    (let c := classifyPattern fmt b
     let s' := writeClass c s
     if c.cls.finiteNonzero then .next { s' with seq := .cvScale }
     else .next (completeDrawn s'))

end Sys2Proof.Machine
end

