-- ==== Sys2Proof/Machine/Estimator.lean ====
section
/-! DEFINITION. The EXEC steps of the estimators: FLOG10P2 and FLOG2P10 (R175, R177). -/

namespace Sys2Proof.Machine

/-- `|e| > ELOG_RANGE` (R171, R175). -/
def outsideElogRange (e : Int) : Bool := decide (Config.elogRange < e.natAbs)

/-- `FLOG10P2` (R175). -/
def execFlog10p2 (s : State) : Result :=
  let a := s.latched.la.val
  let e := sext64 a
  checked [(outsideElogRange e, .range)] s fun _ =>
    (.next (complete (tc64 (floorLog10Pow2 e)) 0 0 s))

/-- `FLOG2P10` (R177). -/
def execFlog2p10 (s : State) : Result :=
  let a := s.latched.la.val
  let e := sext64 a
  checked [(outsideElogRange e, .range)] s fun _ =>
    (.next (complete (tc64 (floorLog2Pow10 e)) 0 0 s))

end Sys2Proof.Machine
end

