-- ==== Sys2Proof/Machine/Multiply.lean ====
section
/-! DEFINITION. The EXEC steps of the multiply family: MULW, MULWHI, MUL192 (R155, R157, R160). The fields FMT, RMODE and
CPOL are ignored (R116), so they are no arguments. -/

namespace Sys2Proof.Machine

/-- `MULW` (R155): the full product, low word first. -/
def execMulw (s : State) : Result :=
  let a := s.latched.la.val
  let b := s.latched.lb.val
  let p := multiplyWide a b
  .next (complete p.2 p.1 0 s)

/-- `MULWHI` (R157): the upper half of the product. -/
def execMulwhi (s : State) : Result :=
  let a := s.latched.la.val
  let b := s.latched.lb.val
  .next (complete (multiplyWideUpper a b) 0 0 s)

/-- `MUL192` (R160): `LC` is the high and `LB` the low word of the wide operand. -/
def execMul192 (s : State) : Result :=
  let a := s.latched.la.val
  let bLo := s.latched.lb.val
  let bHi := s.latched.lc.val
  let u := multiplyWide192Upper128 a bHi bLo
  .next (complete u.2 u.1 0 s)

end Sys2Proof.Machine
end

