-- ==== Sys2Proof/Machine/Policy.lean ====
section
/-! DEFINITION. The EXEC step of POLICY (R295). -/

namespace Sys2Proof.Machine

/-- `POLICY` (R295): the containment flags of any pattern, finite or not. -/
def execPolicy (fmt : Fmt) (rmode : RMode) (s : State) : Result :=
  let b := s.latched.la.val
  checked [(rmode.isReserved, .badOperand), (!patternFits fmt b, .badOperand)] s fun _ =>
    (match policyOf rmode (signOf fmt b) (significandOf fmt (expFieldOf fmt b) (mantissaOf fmt b)) with
     | none => raiseFault .badOperand s
     | some (cl, cr) => .next (complete (policyWord cl cr) 0 0 s))

end Sys2Proof.Machine
end

