-- ==== Sys2Proof/Machine/Dispatch.lean ====
section
/-! DEFINITION. The instruction dispatch: one arm per constructor. For a command it is its EXEC step (R320). -/

namespace Sys2Proof.Machine

def exec (i : Instr) (s : State) : Host.Outcome State Fault Refusal :=
  match i with
  | .convert fmt rmode cpol => Sys2Proof.Machine.execConvert fmt rmode cpol s
  | .classify fmt _ _ => Sys2Proof.Machine.execClassify fmt s
  | .policy fmt rmode _ => Sys2Proof.Machine.execPolicy fmt rmode s
  | .mulw _ _ _ => Sys2Proof.Machine.execMulw s
  | .mulwhi _ _ _ => Sys2Proof.Machine.execMulwhi s
  | .mul192 _ _ _ => Sys2Proof.Machine.execMul192 s
  | .flog10p2 _ _ _ => Sys2Proof.Machine.execFlog10p2 s
  | .flog2p10 _ _ _ => Sys2Proof.Machine.execFlog2p10 s
  | .cache fmt _ _ => Sys2Proof.Machine.execCache fmt s
  | .ivcmp fmt rmode cpol => Sys2Proof.Machine.execIvcmp fmt rmode cpol s
  | .isprodint _ _ _ => Sys2Proof.Machine.execIsprodint s
  | .busWrite idx data => Sys2Proof.Machine.execBusWrite idx data s
  | .busRead idx => Sys2Proof.Machine.execBusRead idx s

end Sys2Proof.Machine
end

