-- ==== Sys2Proof/Machine/Sequencer.lean ====
section
/-! DEFINITION. The agents' steps: the sequencer's (R45, R320), the host's (R140), the platform's reset (R381), and their
interleaving as the inbox gives it (R395; log entry 2). -/

namespace Sys2Proof.Machine

/-- Step `EXEC` (R320): the latched command word is decoded; an illegal one raises ILLEGAL_COMMAND (R124). -/
def execStep (s : State) : Result :=
  let w := s.latched.lcmd.val
  match decodeCmd w with
  | .ok i => exec i s
  | .error _ => raiseFault .illegalCommand s

/-- The sequencer's turn (R45): in `IDLE` and `FAULTED` it has no step and nothing changes (R347; log entry 14). -/
def sequencerStep (s : State) : Result :=
  match s.seq with
  | .idle => .next s
  | .exec => execStep s
  | .cvScale => cvScale s
  | .cvInit => cvInit s
  | .cvUp => cvUp s
  | .cvDown => cvDown s
  | .cvSettle => cvSettle s
  | .cvTail => cvTail s
  | .faulted => .next s

/-- The host's step: one bus transaction (R140, R395). -/
def hostTransaction (t : BusWord) (s : State) : Result :=
  match decodeTxn t with
  | .ok i => exec i s
  | .error _ => .refused (.notATransaction t)

/-- One event of the environment. -/
def deliver (e : Event) (s : State) : Result :=
  match e with
  | .txn t => hostTransaction t s
  | .sequencer => sequencerStep s
  | .reset => .next (applyReset s)

/-- The state with the first event of the inbox taken out. -/
def popInbox (s : State) : State := { s with env := { s.env with inbox := s.env.inbox.tail } }

/-- One step of the system: the next event of the inbox, or, when the host and the platform do nothing more, the
sequencer's turn (R395, R396). -/
def systemStep (s : State) : Result :=
  match s.env.inbox with
  | [] => sequencerStep s
  | e :: _ => deliver e (popInbox s)

/-- Places a command word where the sequencer's next step reads it: the word is accepted (R130), and the next turn is the
sequencer's (log entry 2). -/
def placeCommand (w : Word) (s : State) : State :=
  { accept w s with env := { s.env with inbox := .sequencer :: s.env.inbox } }

/-- Places a bus transaction as the host's next one (log entry 2). -/
def placeTransaction (t : BusWord) (s : State) : State :=
  { s with env := { s.env with inbox := .txn t :: s.env.inbox } }

end Sys2Proof.Machine
end

