-- ==== Sys2Proof/Machine/Step.lean ====
section
/-! DEFINITION. The step function of the machine, and the placing of an instruction for its next step. -/

namespace Sys2Proof.Machine

/-- One step of the machine. -/
def step (s : State) : Host.Outcome State Fault Refusal := systemStep s

/-- The state in which the next step runs the instruction whose bits are `w`, numbered as the opcode table numbers them: a
command word of 64 bits is accepted, a longer word is the host's next transaction (log entry 2). -/
def State.withFetchWord (s : State) (nbits w : Nat) : State :=
  if nbits ≤ 64 then placeCommand (BitVec.ofNat 64 w) s else placeTransaction (BitVec.ofNat 68 w) s

end Sys2Proof.Machine
end

