-- ==== Sys2Proof/Safety.lean ====
section
/-! DEFINITION. The terms that claims use: the rounding interval and the result law (R211, R250), the exact comparison
(R217), what a completion and a fault entry leave (R47, R346), the invariant of the machine, the loop invariant of the digit
search (R257), and the measure of a running command (R397). -/

namespace Sys2Proof.Machine

/-! ## The result law -/

/-- `v` lies in the rounding interval `I` (R211). -/
def inInterval (f : Nat) (e : Int) (edge cl cr : Bool) (v : ℚ) : Prop :=
  (lowerEdge f e edge < v ∧ v < upperEdge f e) ∨ (cl = true ∧ v = lowerEdge f e edge) ∨ (cr = true ∧ v = upperEdge f e)

/-- `(n, x)` is `(s*, E*)` of the interval `I` (R250): the greatest exponent that has a positive multiple in `I`, and the
greatest such multiple. -/
structure IsShortest (I : ℚ → Prop) (n x : Int) : Prop where
  positive : 1 ≤ n
  inside : I ((n : ℚ) * 10 ^ x)
  exponentGreatest : ∀ n' x' : Int, 1 ≤ n' → I ((n' : ℚ) * 10 ^ x') → x' ≤ x
  significandGreatest : ∀ n' : Int, 1 ≤ n' → I ((n' : ℚ) * 10 ^ x) → n' ≤ n

/-- The number of significant decimal digits of a positive integer. -/
def digitCount (n : Int) : Nat := (Nat.digits 10 n.toNat).length

/-- `cmp(kappa)` by its exact meaning (R217). -/
def exactCmp (z delta : ℚ) (kappa : Int) : Cmp :=
  if remainder z kappa < delta then .lt else if remainder z kappa = delta then .eq else .gt

/-- `accept(kappa)` by its exact meaning (R217). -/
def exactAccept (z delta : ℚ) (cl : Bool) (kappa : Int) : Prop :=
  1 ≤ candidate z kappa ∧ (remainder z kappa < delta ∨ (remainder z kappa = delta ∧ cl = true))

/-- `MEMO` is not compared yet, or it holds the verdict of these two values (R220, R221). -/
def memoConsistent (z delta : ℚ) (memo : Memo) : Prop := memo = .notCompared ∨ memo = freshVerdict z delta

/-! ## What completions and fault entries leave -/

/-- `t` is `s` after a completion with these three results: the result registers, BUSY, DONE and SEQ as R47 says, and
nothing else of the register bank changed. -/
structure BankCompleted (s t : State) (r0 r1 r2 : Word) : Prop where
  res0 : t.bank.res0 = r0
  res1 : t.bank.res1 = r1
  res2 : t.bank.res2 = r2
  busy : t.bank.status.busy = false
  done : t.bank.status.done = true
  seq : t.seq = .idle
  fault : t.bank.status.fault = s.bank.status.fault
  ovr : t.bank.status.ovr = s.bank.status.ovr
  fcode : t.bank.status.fcode = s.bank.status.fcode
  fop : t.bank.status.fop = s.bank.status.fop
  cmd : t.bank.cmd = s.bank.cmd
  opa : t.bank.opa = s.bank.opa
  opb : t.bank.opb = s.bank.opb
  opc : t.bank.opc = s.bank.opc
  latched : t.latched = s.latched

/-- No internal register but the latches' group is looked at: the rest of the internal registers are unchanged. -/
structure InternalsKept (s t : State) : Prop where
  cls : t.cls = s.cls
  scale : t.scale = s.scale
  memo : t.memo = s.memo
  search : t.search = s.search

/-- `t` is `s` after a completion that writes nothing but the results, STATUS and SEQ. -/
structure Completes (s t : State) (r0 r1 r2 : Word) : Prop where
  bank : BankCompleted s t r0 r1 r2
  internals : InternalsKept s t
  env : t.env = s.env

/-- `t` is `s` after fault entry with this code for the latched command word `w` (R346): STATUS and SEQ as the rule says,
and nothing else changed. That the internal registers stay in a CONVERT or IVCMP that faults is the model's reading (log
entry 16; R343 leaves it open). -/
structure Faults (code : FaultCode) (w : Word) (s t : State) : Prop where
  fault : t.bank.status.fault = true
  fcode : t.bank.status.fcode = code
  fop : t.bank.status.fop = w.extractLsb' 0 8
  busy : t.bank.status.busy = false
  done : t.bank.status.done = false
  seq : t.seq = .faulted
  ovr : t.bank.status.ovr = s.bank.status.ovr
  res0 : t.bank.res0 = s.bank.res0
  res1 : t.bank.res1 = s.bank.res1
  res2 : t.bank.res2 = s.bank.res2
  cmd : t.bank.cmd = s.bank.cmd
  opa : t.bank.opa = s.bank.opa
  opb : t.bank.opb = s.bank.opb
  opc : t.bank.opc = s.bank.opc
  latched : t.latched = s.latched
  internals : InternalsKept s t
  env : t.env = s.env

/-! ## Written registers -/

/-- A step has written the register since reset (R50). -/
def Latch.isWritten {α : Type} : Latch α → Bool
  | .unwritten _ => false
  | .holds _ => true

/-- Two registers are both unwritten, whatever they hold, or both written with the same value (R50). -/
def Latch.Agree {α : Type} : Latch α → Latch α → Prop
  | .unwritten _, .unwritten _ => True
  | .holds v, .holds w => v = w
  | .unwritten _, .holds _ => False
  | .holds _, .unwritten _ => False

/-- `s` and `t` differ at most in what their unwritten registers hold. -/
structure SameWritten (s t : State) : Prop where
  bank : s.bank = t.bank
  seq : s.seq = t.seq
  memo : s.memo = t.memo
  env : s.env = t.env
  lcmd : s.latched.lcmd.Agree t.latched.lcmd
  la : s.latched.la.Agree t.latched.la
  lb : s.latched.lb.Agree t.latched.lb
  lc : s.latched.lc.Agree t.latched.lc
  sgn : s.cls.sgn.Agree t.cls.sgn
  cls : s.cls.cls.Agree t.cls.cls
  ebf : s.cls.ebf.Agree t.cls.ebf
  f : s.cls.f.Agree t.cls.f
  e : s.cls.e.Agree t.cls.e
  edge : s.cls.edge.Agree t.cls.edge
  cl : s.scale.cl.Agree t.scale.cl
  cr : s.scale.cr.Agree t.scale.cr
  k0 : s.scale.k0.Agree t.scale.k0
  beta : s.scale.beta.Agree t.scale.beta
  cent : s.scale.cent.Agree t.scale.cent
  z : s.scale.z.Agree t.scale.z
  delta : s.scale.delta.Agree t.scale.delta
  kappa : s.search.kappa.Agree t.search.kappa
  lidx : s.search.lidx.Agree t.search.lidx
  kq : s.search.kq.Agree t.search.kq
  sig : s.search.sig.Agree t.search.sig

/-! ## The invariant -/

/-- The steps of a conversion after its EXEC step. -/
def SeqState.converting : SeqState → Bool
  | .idle => false
  | .exec => false
  | .cvScale => true
  | .cvInit => true
  | .cvUp => true
  | .cvDown => true
  | .cvSettle => true
  | .cvTail => true
  | .faulted => false

/-- STATUS agrees with SEQ (R34, R45): the legal combinations of BUSY, DONE and FAULT, and FCODE and FOP of the fault. -/
structure StatusInv (s : State) : Prop where
  busy : s.bank.status.busy = s.seq.busy
  fault : s.bank.status.fault = decide (s.seq = .faulted)
  done : s.bank.status.done = true → s.seq = .idle
  noFault : s.bank.status.fault = false → s.bank.status.fcode = .none ∧ s.bank.status.fop = 0
  faultCode : s.bank.status.fault = true → s.bank.status.fcode ≠ .none ∧ s.bank.status.fop = opField s.bank.cmd

/-- Outside IDLE the latched command is the one in `CMD`, and the operands are latched (R31, R52). -/
structure LatchInv (s : State) : Prop where
  lcmd : s.seq ≠ .idle → s.latched.lcmd = .holds s.bank.cmd
  operands : s.seq ≠ .idle → ∃ a b c, s.latched.la = .holds a ∧ s.latched.lb = .holds b ∧ s.latched.lc = .holds c

/-- The search registers in each step of a conversion (R58, R260 to R264). -/
structure SearchInv (fmt : Fmt) (s : State) : Prop where
  init : s.seq = .cvInit → s.search.kappa = .holds fmt.kappa0 ∧ s.search.lidx = .holds 0
  up : s.seq = .cvUp → ∃ k i, s.search.kappa = .holds k ∧ s.search.lidx = .holds i ∧ kMin ≤ k ∧ k ≤ fmt.kMax ∧
    i < fmt.lambdaUp.length
  down : s.seq = .cvDown → ∃ k i, s.search.kappa = .holds k ∧ s.search.lidx = .holds i ∧ kMin < k ∧ k ≤ fmt.kMax ∧
    i < fmt.lambdaDown.length
  settled : s.seq = .cvSettle ∨ s.seq = .cvTail → ∃ k, s.search.kq = .holds k ∧ kMin ≤ k ∧ k ≤ fmt.kMax

/-- A conversion after its EXEC step: the command is a CONVERT that passed the checks, and the registers hold what the
steps so far compute from the latched pattern `b` (R50, R53 to R57). -/
structure ConvertInv (fmt : Fmt) (rmode : RMode) (cpol : CasePolicy) (b : Word) (s : State) : Prop where
  command : decodeCmd s.bank.cmd = .ok (.convert fmt rmode cpol)
  mode : rmode.isReserved = false
  operand : s.latched.la = .holds b
  fits : patternFits fmt b = true
  finite : (classifyPattern fmt b).cls.finiteNonzero = true
  classified : s.cls = classRegs (classifyPattern fmt b)
  scaled : s.seq ≠ .cvScale → ∃ v, scaleOf fmt rmode (classifyPattern fmt b).sgn (classifyPattern fmt b).f.toNat
    (classifyPattern fmt b).e (classifyPattern fmt b).edge = .ok v ∧ s.scale = scaleRegs v ∧
    memoConsistent v.z v.delta s.memo
  search : SearchInv fmt s

/-- The invariant of the machine: STATUS, the latches, and the registers of a running conversion. -/
structure Inv (s : State) : Prop where
  status : StatusInv s
  latch : LatchInv s
  convert : s.seq.converting = true → ∃ fmt rmode cpol b, ConvertInv fmt rmode cpol b s

/-! ## The loop invariant of the digit search -/

/-- The invariant of `search()` (R257), for the values `z`, `delta`, `cl` and `cr` of the running conversion. In the upward
phase kappa is accepted and nothing above it and the sum of the lambdas left is; in the downward phase kappa is rejected and
the value just below kappa and that sum is accepted; then `KQ` is the greatest accepted kappa; and the tail is entered only
where the candidate is the open right edge (R264). -/
structure SearchBracket (fmt : Fmt) (z delta : ℚ) (cl cr : Bool) (s : State) : Prop where
  up : s.seq = .cvUp → ∀ (k : Int) (i : Nat), s.search.kappa = .holds k → s.search.lidx = .holds i →
    exactAccept z delta cl k ∧ ∀ kappa : Int, exactAccept z delta cl kappa → kappa ≤ k + (fmt.lambdaUp.drop i).sum
  down : s.seq = .cvDown → ∀ (k : Int) (i : Nat), s.search.kappa = .holds k → s.search.lidx = .holds i →
    ¬exactAccept z delta cl k ∧ exactAccept z delta cl (k - 1 - (fmt.lambdaDown.drop i).sum)
  settled : s.seq = .cvSettle ∨ s.seq = .cvTail → ∀ kq : Int, s.search.kq = .holds kq →
    exactAccept z delta cl kq ∧ ∀ kappa : Int, kq < kappa → ¬exactAccept z delta cl kappa
  tail : s.seq = .cvTail → cr = false ∧ ∀ kq : Int, s.search.kq = .holds kq → remainder z kq = 0

/-- The loop invariant at a state: where a conversion is past CV_SCALE, `SearchBracket` holds of its registers. -/
def BracketInv (s : State) : Prop :=
  s.seq.converting = true → s.seq ≠ .cvScale → ∀ (z delta : ℚ) (cl cr : Bool), s.scale.z = .holds z →
    s.scale.delta = .holds delta → s.scale.cl = .holds cl → s.scale.cr = .holds cr →
    SearchBracket (fmtField s.bank.cmd) z delta cl cr s

/-! ## The measure of a running command -/

/-- The lambdas that a list still has from the index `LIDX` on (R58). -/
def lambdasLeft (lambdas : List Int) (lidx : Nat) : Nat := lambdas.length - lidx

/-- The most lambda steps that a conversion takes in one phase (R266). -/
def Fmt.searchSteps (fmt : Fmt) : Nat := max fmt.lambdaUp.length fmt.lambdaDown.length

/-- The most steps that a command word takes (R397): a CONVERT those of R266, anything else its EXEC step. -/
def commandSteps (w : Word) : Nat :=
  match decodeCmd w with
  | .ok (.convert fmt _ _) => Fmt.searchSteps fmt + 5
  | _ => 1

/-- The most steps that the sequencer still takes for the running command (R266, R397). -/
def stepsLeft (s : State) : Nat :=
  match s.seq with
  | .idle => 0
  | .exec => commandSteps s.bank.cmd
  | .cvScale => Fmt.searchSteps (fmtField s.bank.cmd) + 4
  | .cvInit => Fmt.searchSteps (fmtField s.bank.cmd) + 3
  | .cvUp => lambdasLeft (fmtField s.bank.cmd).lambdaUp s.search.lidx.val + 2
  | .cvDown => lambdasLeft (fmtField s.bank.cmd).lambdaDown s.search.lidx.val + 2
  | .cvSettle => 2
  | .cvTail => 1
  | .faulted => 0

/-- Every word that the host still has to send is a transaction of R140. -/
def InboxOk (s : State) : Prop := ∀ t, Event.txn t ∈ s.env.inbox → ∃ i, decodeTxn t = .ok i

/-- The next thing that happens is the sequencer's turn: the environment has nothing before it (R395). -/
def SequencerNext (s : State) : Prop := s.env.inbox = [] ∨ ∃ rest, s.env.inbox = .sequencer :: rest

/-- A CONVERT of a finite nonzero pattern has been accepted and its EXEC step comes next, with nothing else to happen. -/
structure ConvertReady (fmt : Fmt) (rmode : RMode) (cpol : CasePolicy) (b : Word) (s : State) : Prop where
  quiet : s.env.inbox = []
  seq : s.seq = .exec
  command : decodeCmd s.latched.lcmd.val = .ok (.convert fmt rmode cpol)
  mode : rmode.isReserved = false
  operand : s.latched.la.val = b
  fits : patternFits fmt b = true
  finite : (classifyPattern fmt b).cls.finiteNonzero = true

end Sys2Proof.Machine
end

