-- ==== Sys2Proof/Certificates/Slice0/Obligations.lean ====
section
/-! DEFINITION. The statements for the provers. Each docstring names the rules of the spec it formalises; where a clause is
the model's own choice it names the log entry. -/

open Sys2Proof Sys2Proof.Machine

/-! ## Encoding -/

/-- Decoding an encoded instruction gives it back, for every instruction and every field value (R110, R120, R125, R140). -/
def Obligations.DecodeEncodeRoundTrip : Prop := ∀ i : Instr, decode (encode i) = .ok i

/-- Every word that decodes is the encoding of what it decodes to: no bit of a word is dropped (R110, R125, R140). -/
def Obligations.EncodeDecodeRoundTrip : Prop := ∀ (w : CodeWord) (i : Instr), decode w = .ok i → encode i = w

/-- Which instruction every word is. A command word decodes exactly where it selects a row of the table by match and mask,
to the constructor of that row, with FMT, RMODE and CPOL by their numbers (R112 to R114, R120, R124, R125). A transaction with
RW = 1 is a write of the register its IDX numbers, one with RW = 0 and no DATA a read of it (R30, R140); that a read with DATA
is none is log entry 13. -/
def Obligations.DecodesExactlyTheTableRows : Prop :=
  (∀ (w : Word) (fmt : Fmt) (rmode : RMode) (cpol : CasePolicy),
      fmt = (if w.getLsbD 8 then .binary64 else .binary32) →
      ((w.extractLsb' 9 3).toNat, rmode) ∈ [(0, RMode.rne), (1, .rtz), (2, .rdn), (3, .rup), (4, .fast), (5, .reserved5),
        (6, .reserved6), (7, .reserved7)] →
      cpol = (if w.getLsbD 12 then .ignore else .assertFinite) →
      (w &&& 0xFFFFFFFFFFFFE0FF = 0x01 → decodeCmd w = .ok (.convert fmt rmode cpol)) ∧
        (w &&& 0xFFFFFFFFFFFFE0FF = 0x02 → decodeCmd w = .ok (.classify fmt rmode cpol)) ∧
        (w &&& 0xFFFFFFFFFFFFE0FF = 0x03 → decodeCmd w = .ok (.policy fmt rmode cpol)) ∧
        (w &&& 0xFFFFFFFFFFFFE0FF = 0x10 → decodeCmd w = .ok (.mulw fmt rmode cpol)) ∧
        (w &&& 0xFFFFFFFFFFFFE0FF = 0x11 → decodeCmd w = .ok (.mulwhi fmt rmode cpol)) ∧
        (w &&& 0xFFFFFFFFFFFFE0FF = 0x12 → decodeCmd w = .ok (.mul192 fmt rmode cpol)) ∧
        (w &&& 0xFFFFFFFFFFFFE0FF = 0x20 → decodeCmd w = .ok (.flog10p2 fmt rmode cpol)) ∧
        (w &&& 0xFFFFFFFFFFFFE0FF = 0x21 → decodeCmd w = .ok (.flog2p10 fmt rmode cpol)) ∧
        (w &&& 0xFFFFFFFFFFFFE0FF = 0x30 → decodeCmd w = .ok (.cache fmt rmode cpol)) ∧
        (w &&& 0xFFFFFFFFFFFFE0FF = 0x40 → decodeCmd w = .ok (.ivcmp fmt rmode cpol)) ∧
        (w &&& 0xFFFFFFFFFFFFE0FF = 0x41 → decodeCmd w = .ok (.isprodint fmt rmode cpol)) ∧
        ((∃ i, decodeCmd w = .ok i) ↔
          w &&& 0xFFFFFFFFFFFFE0FF ∈ [0x01, 0x02, 0x03, 0x10, 0x11, 0x12, 0x20, 0x21, 0x30, 0x40, 0x41])) ∧
    ∀ (t : BusWord) (r : HostReg),
      ((t.extractLsb' 64 3).toNat, r) ∈ [(0, HostReg.cmd), (1, .opa), (2, .opb), (3, .opc), (4, .res0), (5, .res1),
        (6, .res2), (7, .status)] →
      (t.getLsbD 67 = true → decodeTxn t = .ok (.busWrite r (t.extractLsb' 0 64))) ∧
        (t.getLsbD 67 = false → t.extractLsb' 0 64 = 0 → decodeTxn t = .ok (.busRead r)) ∧
        (t.getLsbD 67 = false → t.extractLsb' 0 64 ≠ 0 → ∀ i, decodeTxn t ≠ .ok i)

/-- A few words written out in the spec decode to the instructions they stand for (R140, R143). -/
def Obligations.SampleWordsDecode : Prop :=
  decodeCmd 0x0000000000000701 = .ok (.convert .binary64 .rup .assertFinite) ∧
    decodeCmd 0x0000000000001101 = .ok (.convert .binary64 .rne .ignore) ∧
    decodeCmd 0x0000000000000603 = .ok (.policy .binary32 .rup .assertFinite) ∧
    decodeCmd 0x0000000000000012 = .ok (.mul192 .binary32 .rne .assertFinite) ∧
    decodeTxn 0x93FF0000000000000 = .ok (.busWrite .opa 0x3FF0000000000000) ∧
    decodeTxn 0x70000000000000000 = .ok (.busRead .status)

/-! ## A step runs the decoded instruction -/

/-- In `EXEC`, when the sequencer's turn is next, the step runs the instruction that the latched word decodes to, on the
state without the event consumed (R320, R395; the inbox is log entry 2). -/
def Obligations.StepRunsLatchedCommand : Prop :=
  ∀ (s : State) (w : Word) (i : Instr), SequencerNext s → s.seq = .exec → s.latched.lcmd.val = w →
    decodeCmd w = .ok i → step s = exec i (popInbox s)

/-- When a host transaction is next, the step runs the instruction its word decodes to, whatever the sequencer does (R140,
R395; the inbox is log entry 2). -/
def Obligations.StepRunsHostTransaction : Prop :=
  ∀ (s : State) (t : BusWord) (rest : List Event) (i : Instr), s.env.inbox = .txn t :: rest → decodeTxn t = .ok i →
    step s = exec i (popInbox s)

/-- A word placed as the next command is accepted and run by the very next step (R130, R320; log entry 2). -/
def Obligations.PlacedCommandRunsNext : Prop :=
  ∀ (s : State) (w : Word) (i : Instr), decodeTableWord 64 w.toNat = some i →
    step (s.withFetchWord 64 w.toNat) = exec i (accept w s)

/-- In `EXEC`, a latched word whose OP is none of the eleven, or with a bit of [63:13] set, takes ILLEGAL_COMMAND: the fault
is recorded and nothing else changes (R124; fault entry R346). The frame is taken on the state without the event consumed
(the inbox is log entry 2); that the internal registers stay, for a word with the OP of CONVERT or IVCMP too, is log entry 16
(R343 leaves it open). -/
def Obligations.IllegalWordFaults : Prop :=
  ∀ (s : State) (w : Word), SequencerNext s → s.seq = .exec → s.latched.lcmd.val = w →
    ((w.extractLsb' 0 8).toNat ∉ [0x01, 0x02, 0x03, 0x10, 0x11, 0x12, 0x20, 0x21, 0x30, 0x40, 0x41] ∨
      w.extractLsb' 13 51 ≠ 0) →
    ∃ t, step s = .next t ∧ Faults .illegalCommand w (popInbox s) t

/-! ## Reset -/

/-- The reset state: every host register reads 0, SEQ is IDLE, MEMO is NOT_COMPARED, and the other internal registers are
unwritten (R380). What an unwritten register holds is log entry 1, and the statement says nothing of it. -/
def Obligations.ResetStateValues : Prop :=
  (∀ r : HostReg, State.reset.bank.get r = 0) ∧ State.reset.seq = .idle ∧ State.reset.memo = .notCompared ∧
    State.reset.latched.lcmd.isWritten = false ∧ State.reset.latched.la.isWritten = false ∧
    State.reset.latched.lb.isWritten = false ∧ State.reset.latched.lc.isWritten = false ∧
    State.reset.cls.sgn.isWritten = false ∧ State.reset.cls.cls.isWritten = false ∧
    State.reset.cls.ebf.isWritten = false ∧ State.reset.cls.f.isWritten = false ∧ State.reset.cls.e.isWritten = false ∧
    State.reset.cls.edge.isWritten = false ∧ State.reset.scale.cl.isWritten = false ∧
    State.reset.scale.cr.isWritten = false ∧ State.reset.scale.k0.isWritten = false ∧
    State.reset.scale.beta.isWritten = false ∧ State.reset.scale.cent.isWritten = false ∧
    State.reset.scale.z.isWritten = false ∧ State.reset.scale.delta.isWritten = false ∧
    State.reset.search.kappa.isWritten = false ∧ State.reset.search.lidx.isWritten = false ∧
    State.reset.search.kq.isWritten = false ∧ State.reset.search.sig.isWritten = false

/-- The reset signal puts the block into its reset state from any state, abandoning a running command and leaving a fault
(R347, R381); the rest of the environment stays (log entry 15). -/
def Obligations.ResetEventRestoresBlock : Prop :=
  ∀ (s : State) (rest : List Event), s.env.inbox = .reset :: rest →
    ∃ t, step s = .next t ∧ (∀ r : HostReg, t.bank.get r = 0) ∧ t.bank = State.reset.bank ∧ t.seq = .idle ∧
      t.latched = State.reset.latched ∧ t.cls = State.reset.cls ∧ t.scale = State.reset.scale ∧
      t.memo = .notCompared ∧ t.search = State.reset.search ∧ t.env.inbox = rest ∧ t.env.resp = s.env.resp ∧
      t.env.draws = s.env.draws

/-- The invariant and the loop invariant of the search hold after reset (R380). -/
def Obligations.ResetMeetsInvariant : Prop := Inv State.reset ∧ InboxOk State.reset ∧ BracketInv State.reset

/-! ## The invariant -/

/-- Every step keeps the invariant: STATUS agrees with SEQ, the latches hold the accepted command, and the registers of a
running conversion hold what its steps compute (R34, R45, R50, R52, R58). -/
def Obligations.StepKeepsInvariant : Prop := ∀ s t : State, Inv s → step s = .next t → Inv t

/-- From every state that meets the invariant, with transactions of R140 in the inbox, the step answers a next state (no stop
of the model is reached), and it reads no unwritten register: from two states that differ only in what their unwritten
registers hold, the steps lead to two such states. The spec's own inference: "No admitted run reaches such a read" (R50), its
reset content "is unobservable" (R380), and a ROM read out of range "never happens" (R86). The stops are the model's (log
entry 12), and so is that an unwritten register holds a value (log entry 1). -/
def Obligations.StepGoesOnWithoutUnwrittenReads : Prop :=
  ∀ s s' : State, Inv s → InboxOk s → SameWritten s s' →
    ∃ t t', step s = .next t ∧ step s' = .next t' ∧ InboxOk t ∧ SameWritten t t'

/-- The step bound, whatever the host does. While a command runs, `stepsLeft` is at least 1 and at most 9 (at most 8 for a
binary32 word, and 1 in the EXEC step of any command but CONVERT); the sequencer has a next step, and that step lowers it; a host
transaction leaves it as it is and the command running; it is 0 exactly where no command runs. The invariant is kept by both
steps. The table of R397 is the spec's decision; that every state is meant is its own inference (R399, from R397). The states
are those of the model's invariant. -/
def Obligations.SequencerStepBound : Prop :=
  ∀ s : State, Inv s →
    (stepsLeft s = 0 ↔ s.seq.busy = false) ∧
      (s.seq.busy = true →
        stepsLeft s ≤ 9 ∧ (fmtField s.bank.cmd = .binary32 → stepsLeft s ≤ 8) ∧
          (s.seq = .exec → (∀ fmt rmode cpol, decodeCmd s.bank.cmd ≠ .ok (.convert fmt rmode cpol)) → stepsLeft s = 1) ∧
          (∃ t, sequencerStep s = .next t ∧ Inv t ∧ stepsLeft t < stepsLeft s) ∧
          ∀ (w : BusWord) (t : State), hostTransaction w s = .next t →
            Inv t ∧ t.seq.busy = true ∧ stepsLeft t = stepsLeft s)

/-- Every command but CONVERT, and every word that is no command, ends in its one EXEC step (R320, R397). -/
def Obligations.OtherCommandsTakeOneStep : Prop :=
  ∀ (s : State) (w : Word), Inv s → SequencerNext s → s.seq = .exec → s.latched.lcmd.val = w →
    (∀ fmt rmode cpol, decodeCmd w ≠ .ok (.convert fmt rmode cpol)) →
    ∃ t, step s = .next t ∧ t.seq.busy = false

/-! ## The register bank and the bus -/

/-- STATUS as a host reads it: each field at its bits, the fault codes by their numbers, and bits 63:16 zero (R34, R340). -/
def Obligations.StatusWordFields : Prop :=
  ∀ st : Status, st.word.getLsbD 0 = st.busy ∧ st.word.getLsbD 1 = st.done ∧ st.word.getLsbD 2 = st.fault ∧
    st.word.getLsbD 3 = st.ovr ∧ (st.fcode = .none → st.word.extractLsb' 4 4 = 0) ∧
    (st.fcode = .illegalCommand → st.word.extractLsb' 4 4 = 1) ∧ (st.fcode = .badOperand → st.word.extractLsb' 4 4 = 2) ∧
    (st.fcode = .notFiniteNonzero → st.word.extractLsb' 4 4 = 3) ∧ (st.fcode = .range → st.word.extractLsb' 4 4 = 4) ∧
    st.word.extractLsb' 8 8 = st.fop ∧ st.word.extractLsb' 16 48 = 0

/-- A host write of an operand register, in any state, changes that register and nothing else (R32, R81, R353). -/
def Obligations.OperandWriteChangesOnlyThatRegister : Prop :=
  ∀ (s : State) (r : HostReg) (v : Word), r = .opa ∨ r = .opb ∨ r = .opc →
    ∃ t, exec (.busWrite r v) s = .next t ∧ t.bank.get r = v ∧ (∀ r', r' ≠ r → t.bank.get r' = s.bank.get r') ∧
      t.bank.status = s.bank.status ∧ t.seq = s.seq ∧ t.latched = s.latched ∧ InternalsKept s t ∧ t.env = s.env

/-- A host write of a read-only register is ignored, changing no state; a host read has no side effect on any register (R35). -/
def Obligations.HostAccessWithoutSideEffect : Prop :=
  ∀ (s : State) (r : HostReg) (v : Word),
    (r = .res0 ∨ r = .res1 ∨ r = .res2 ∨ r = .status → exec (.busWrite r v) s = .next s) ∧
      ∃ t, exec (.busRead r) s = .next t ∧ (∀ r', t.bank.get r' = s.bank.get r') ∧ t.seq = s.seq ∧
        t.latched = s.latched ∧ InternalsKept s t

/-- A command written in IDLE is accepted: the word and the operands are latched, BUSY is set, DONE and OVR are cleared,
and nothing else changes (R130, R52). -/
def Obligations.CommandAccepted : Prop :=
  ∀ (s : State) (v : Word), s.seq = .idle →
    ∃ t, exec (.busWrite .cmd v) s = .next t ∧ t.bank.get .cmd = v ∧ t.latched.lcmd = .holds v ∧
      t.latched.la = .holds (s.bank.get .opa) ∧ t.latched.lb = .holds (s.bank.get .opb) ∧
      t.latched.lc = .holds (s.bank.get .opc) ∧
      t.bank.status.busy = true ∧ t.bank.status.done = false ∧ t.bank.status.ovr = false ∧ t.seq = .exec ∧
      t.bank.status.fault = s.bank.status.fault ∧ t.bank.status.fcode = s.bank.status.fcode ∧
      t.bank.status.fop = s.bank.status.fop ∧
      (∀ r, r ≠ .cmd → r ≠ .status → t.bank.get r = s.bank.get r) ∧ InternalsKept s t ∧ t.env = s.env

/-- A command written while busy or faulted is dropped: OVR is set and nothing else changes (R352, R402). -/
def Obligations.CommandOverrun : Prop :=
  ∀ (s : State) (v : Word), s.seq ≠ .idle →
    ∃ t, exec (.busWrite .cmd v) s = .next t ∧ t.bank.status.ovr = true ∧
      t.bank.status.busy = s.bank.status.busy ∧ t.bank.status.done = s.bank.status.done ∧
      t.bank.status.fault = s.bank.status.fault ∧ t.bank.status.fcode = s.bank.status.fcode ∧
      t.bank.status.fop = s.bank.status.fop ∧ (∀ r, r ≠ .status → t.bank.get r = s.bank.get r) ∧
      t.seq = s.seq ∧ t.latched = s.latched ∧ InternalsKept s t ∧ t.env = s.env

/-- A host read returns the register of its name, STATUS as a word, and has no side effect on the block (R30, R35, R140); where
the model keeps the returned value is log entry 3. -/
def Obligations.BusReadReturnsRegister : Prop :=
  ∀ (s : State) (r : HostReg) (v : Word),
    (r, v) ∈ [(HostReg.cmd, s.bank.cmd), (.opa, s.bank.opa), (.opb, s.bank.opb), (.opc, s.bank.opc), (.res0, s.bank.res0),
      (.res1, s.bank.res1), (.res2, s.bank.res2), (.status, s.bank.status.word)] →
    ∃ t, exec (.busRead r) s = .next t ∧ t.env.resp = some v ∧ v = s.bank.get r ∧
    t.bank = s.bank ∧ t.seq = s.seq ∧ t.latched = s.latched ∧ InternalsKept s t ∧
    t.env.inbox = s.env.inbox ∧ t.env.draws = s.env.draws

/-! ## Rules about the whole machine -/

/-- The sequencer never writes CMD, OPA, OPB or OPC, nor the latches (R31, R32, R52). -/
def Obligations.SequencerKeepsCommandAndOperands : Prop :=
  ∀ s t : State, sequencerStep s = .next t → t.bank.cmd = s.bank.cmd ∧ t.bank.opa = s.bank.opa ∧
    t.bank.opb = s.bank.opb ∧ t.bank.opc = s.bank.opc ∧ t.latched = s.latched

/-- Only a completion writes the result registers, apart from reset: where a step that is no reset changes one of them, a
running command has just completed (R33, R47). -/
def Obligations.OnlyCompletionWritesResults : Prop :=
  ∀ s t : State, step s = .next t → (∀ rest, s.env.inbox ≠ .reset :: rest) →
    ¬(t.bank.res0 = s.bank.res0 ∧ t.bank.res1 = s.bank.res1 ∧ t.bank.res2 = s.bank.res2) →
    s.seq.busy = true ∧ t.seq = .idle ∧ t.bank.status.done = true ∧ t.bank.status.busy = false

/-- FAULTED is left by reset alone: any other step keeps SEQ, FAULT, FCODE, FOP, CMD and the results (R347; that FCODE
and FOP keep the first fault's values is the spec's own inference, R348). -/
def Obligations.FaultedUntilReset : Prop :=
  ∀ s t : State, s.seq = .faulted → step s = .next t → (∀ rest, s.env.inbox ≠ .reset :: rest) →
    t.seq = .faulted ∧ t.bank.status.fault = s.bank.status.fault ∧ t.bank.status.fcode = s.bank.status.fcode ∧
      t.bank.status.fop = s.bank.status.fop ∧ t.bank.cmd = s.bank.cmd ∧ t.bank.res0 = s.bank.res0 ∧
      t.bank.res1 = s.bank.res1 ∧ t.bank.res2 = s.bank.res2

/-- Faults are precise: a sequencer step that enters FAULTED is an EXEC step, and it changes nothing but STATUS and SEQ;
OVR stays (R321, R340, R346; "Faults are precise" is the spec's own inference, R343; that the internal registers stay is
log entry 16). -/
def Obligations.FaultsArePrecise : Prop :=
  ∀ s t : State, s.seq ≠ .faulted → sequencerStep s = .next t → t.seq = .faulted →
    s.seq = .exec ∧ ∃ w code, s.latched.lcmd.val = w ∧ code ≠ .none ∧ Faults code w s t

/-- A host transaction while a command runs changes neither the sequencer, nor the latches, nor any internal register, nor
a result (R52, R353, R401, R402). -/
def Obligations.HostCannotDisturbRunningCommand : Prop :=
  ∀ (s t : State) (w : BusWord), s.seq.busy = true → hostTransaction w s = .next t →
    t.seq = s.seq ∧ t.latched = s.latched ∧ InternalsKept s t ∧ t.bank.res0 = s.bank.res0 ∧
      t.bank.res1 = s.bank.res1 ∧ t.bank.res2 = s.bank.res2 ∧ t.bank.cmd = s.bank.cmd

/-- A sequencer step and a host access commute, so the running command does not see the host: a write of an operand register
or of a read-only register, in every state (R32, R35, R401); a read, which leaves only the value returned to the host, that of
the register at the time of the read (R35, R140; log entry 3); and a command dropped while the block is busy or faulted
(R352, R402), also where the step ends the command: then SEQ, the results, the latches and the internal registers are those of
the undisturbed step, and STATUS differs by OVR alone. -/
def Obligations.HostAccessCommutesWithSequencer : Prop :=
  ∀ s t : State, sequencerStep s = .next t →
    (∀ (r : HostReg) (v : Word), r ≠ .cmd → sequencerStep (hostWrite r v s) = .next (hostWrite r v t)) ∧
      (∀ r : HostReg, ∃ u, sequencerStep (hostRead r s) = .next u ∧ u.bank = t.bank ∧ u.seq = t.seq ∧
        u.latched = t.latched ∧ InternalsKept t u ∧ u.env.resp = some (s.bank.get r) ∧ u.env.inbox = t.env.inbox ∧
        u.env.draws = t.env.draws) ∧
      ∀ v : Word, s.seq ≠ .idle →
        (t.seq ≠ .idle → sequencerStep (hostWrite .cmd v s) = .next (hostWrite .cmd v t)) ∧
          ∃ u, sequencerStep (hostWrite .cmd v s) = .next u ∧ u.seq = t.seq ∧ u.latched = t.latched ∧
            InternalsKept t u ∧ u.env = t.env ∧ (∀ r, r ≠ .status → u.bank.get r = t.bank.get r) ∧
            u.bank.status = { t.bank.status with ovr := true }

/-! ## Multiply -/

/-- MULW completes with the exact 128-bit product, low word in RES0 and high word in RES1 (R150, R155). -/
def Obligations.MulwExactProduct : Prop :=
  ∀ (fmt : Fmt) (rmode : RMode) (cpol : CasePolicy) (s : State) (a b : Word),
    s.latched.la.val = a → s.latched.lb.val = b →
    ∃ t lo hi, exec (.mulw fmt rmode cpol) s = .next t ∧ Completes s t lo hi 0 ∧
      hi.toNat * 2 ^ 64 + lo.toNat = a.toNat * b.toNat

/-- MULWHI completes with the upper 64 bits of the product (R151, R157). -/
def Obligations.MulwhiUpperHalf : Prop :=
  ∀ (fmt : Fmt) (rmode : RMode) (cpol : CasePolicy) (s : State) (a b : Word),
    s.latched.la.val = a → s.latched.lb.val = b →
    ∃ t hi, exec (.mulwhi fmt rmode cpol) s = .next t ∧ Completes s t hi 0 0 ∧
      hi.toNat = a.toNat * b.toNat / 2 ^ 64

/-- MUL192 completes with the top 128 bits of the 192-bit product, truncated (R152, R160). -/
def Obligations.Mul192TopBits : Prop :=
  ∀ (fmt : Fmt) (rmode : RMode) (cpol : CasePolicy) (s : State) (a bLo bHi : Word),
    s.latched.la.val = a → s.latched.lb.val = bLo → s.latched.lc.val = bHi →
    ∃ t lo hi, exec (.mul192 fmt rmode cpol) s = .next t ∧ Completes s t lo hi 0 ∧
      hi.toNat * 2 ^ 64 + lo.toNat = a.toNat * (bHi.toNat * 2 ^ 64 + bLo.toNat) / 2 ^ 64

/-- The four 32-bit partial products of R154 give the product of R150. -/
def Obligations.LimbDecompositionAgrees : Prop :=
  ∀ a b : Word, multiplyWideLimbs a b = ((multiplyWide a b).1.toNat, (multiplyWide a b).2.toNat)

/-! ## Estimators -/

/-- FLOG10P2 inside the domain completes with the greatest `n` such that `10^n <= 2^e` (R170, R175). -/
def Obligations.Flog10p2ExactFloor : Prop :=
  ∀ (fmt : Fmt) (rmode : RMode) (cpol : CasePolicy) (s : State) (a : Word),
    s.latched.la.val = a → a.toInt.natAbs ≤ Config.elogRange →
    ∃ t r, exec (.flog10p2 fmt rmode cpol) s = .next t ∧ Completes s t r 0 0 ∧
      (10 : ℚ) ^ r.toInt ≤ 2 ^ a.toInt ∧ ∀ m : Int, (10 : ℚ) ^ m ≤ 2 ^ a.toInt → m ≤ r.toInt

/-- FLOG2P10 inside the domain completes with the greatest `n` such that `2^n <= 10^e` (R170, R177). -/
def Obligations.Flog2p10ExactFloor : Prop :=
  ∀ (fmt : Fmt) (rmode : RMode) (cpol : CasePolicy) (s : State) (a : Word),
    s.latched.la.val = a → a.toInt.natAbs ≤ Config.elogRange →
    ∃ t r, exec (.flog2p10 fmt rmode cpol) s = .next t ∧ Completes s t r 0 0 ∧
      (2 : ℚ) ^ r.toInt ≤ 10 ^ a.toInt ∧ ∀ m : Int, (2 : ℚ) ^ m ≤ 10 ^ a.toInt → m ≤ r.toInt

/-- Outside the domain both estimators take RANGE (R171, R175, R177, R340). -/
def Obligations.EstimatorRangeFault : Prop :=
  ∀ (fmt : Fmt) (rmode : RMode) (cpol : CasePolicy) (s : State) (w a : Word),
    s.latched.lcmd.val = w → s.latched.la.val = a → Config.elogRange < a.toInt.natAbs →
    (∃ t, exec (.flog10p2 fmt rmode cpol) s = .next t ∧ Faults .range w s t) ∧
      ∃ t, exec (.flog2p10 fmt rmode cpol) s = .next t ∧ Faults .range w s t

/-- The properties of the two estimators that R173 lists: monotony, the value at 0, reflection, the values near 0 and the
values at the ends of the domain. All are the spec's own inference, "[derived: from rule R170]". -/
def Obligations.EstimatorProperties : Prop :=
  (∀ e e' : Int, e ≤ e' → floorLog10Pow2 e ≤ floorLog10Pow2 e' ∧ floorLog2Pow10 e ≤ floorLog2Pow10 e') ∧
    floorLog10Pow2 0 = 0 ∧ floorLog2Pow10 0 = 0 ∧
    (∀ e : Int, e ≠ 0 → floorLog10Pow2 (-e) = -floorLog10Pow2 e - 1 ∧ floorLog2Pow10 (-e) = -floorLog2Pow10 e - 1) ∧
    (∀ e : Int, 0 ≤ e → e ≤ 3 → floorLog10Pow2 e = 0) ∧ (∀ e : Int, -3 ≤ e → e ≤ -1 → floorLog10Pow2 e = -1) ∧
    floorLog2Pow10 1 = 3 ∧ floorLog2Pow10 (-1) = -4 ∧
    floorLog10Pow2 65536 = 19728 ∧ floorLog10Pow2 (-65536) = -19729 ∧
    floorLog2Pow10 65536 = 217705 ∧ floorLog2Pow10 (-65536) = -217706

/-! ## Cache -/

/-- CACHE inside the index range completes with the truncation of `10^k` normalised to Q bits, a binary64 entry as its low
and high words (R190, R192, R195). -/
def Obligations.CacheEntryTruncated : Prop :=
  ∀ (fmt : Fmt) (rmode : RMode) (cpol : CasePolicy) (s : State) (a : Word),
    s.latched.la.val = a → fmt.minK ≤ a.toInt → a.toInt ≤ fmt.maxK →
    ∃ (t : State) (lo hi : Word) (n : Int) (c : Nat),
      exec (.cache fmt rmode cpol) s = .next t ∧ Completes s t lo hi 0 ∧
        (2 : ℚ) ^ n ≤ 10 ^ a.toInt ∧ (10 : ℚ) ^ a.toInt < 2 ^ (n + 1) ∧
        (c : ℚ) ≤ 10 ^ a.toInt * 2 ^ ((fmt.cachePrecision : Int) - 1 - n) ∧
        (10 : ℚ) ^ a.toInt * 2 ^ ((fmt.cachePrecision : Int) - 1 - n) < c + 1 ∧
        (fmt = .binary32 → lo.toNat = c ∧ hi = 0) ∧
        (fmt = .binary64 → hi.toNat * 2 ^ 64 + lo.toNat = c)

/-- CACHE outside the index range takes RANGE (R195, R340). -/
def Obligations.CacheRangeFault : Prop :=
  ∀ (fmt : Fmt) (rmode : RMode) (cpol : CasePolicy) (s : State) (w a : Word),
    s.latched.lcmd.val = w → s.latched.la.val = a → (a.toInt < fmt.minK ∨ fmt.maxK < a.toInt) →
    ∃ t, exec (.cache fmt rmode cpol) s = .next t ∧ Faults .range w s t

/-- Every entry has its top bit set: `2^(Q-1) <= c(k) < 2^Q`; and the entries that R193 calls exact are exact. Both are
the spec's own inference, marked derived in R190 and R193. -/
def Obligations.CacheEntriesNormalised : Prop :=
  (∀ (fmt : Fmt) (k : Int), 2 ^ (fmt.cachePrecision - 1) ≤ cacheEntry fmt k ∧ cacheEntry fmt k < 2 ^ fmt.cachePrecision) ∧
    (∀ k : Int, 0 ≤ k → k ≤ 27 → (cacheEntry .binary32 k : ℚ) = 10 ^ k * 2 ^ (63 - floorLog2Pow10 k)) ∧
    ∀ k : Int, 0 ≤ k → k ≤ 55 → (cacheEntry .binary64 k : ℚ) = 10 ^ k * 2 ^ (127 - floorLog2Pow10 k)

/-- The conversion reads the ROM only inside its index range, and both ends of the range are read: the spec's own
inference, marked derived in R191. -/
def Obligations.ConversionIndicesInRange : Prop :=
  ∀ fmt : Fmt, (∀ e : Int, fmt.eMin ≤ e → e ≤ fmt.eMaxF → fmt.minK ≤ -decimalScale e ∧ -decimalScale e ≤ fmt.maxK) ∧
    -decimalScale fmt.eMin = fmt.maxK ∧ -decimalScale fmt.eMaxF = fmt.minK

/-! ## The comparator -/

/-- The scale normalises: `1 <= 2^e * 10^(-K0) < 10` (R212); BETA lies in [ALPHA, GAMMA] and fixes the binary magnitude
(R213); DELTA lies in [3/4, 10) (R215). The ranges are the spec's own inference, marked derived in these
rules. -/
def Obligations.ScaleBounds : Prop :=
  ∀ e : Int, (1 : ℚ) ≤ 2 ^ e * 10 ^ (-decimalScale e) ∧ (2 : ℚ) ^ e * 10 ^ (-decimalScale e) < 10 ∧
    alpha ≤ betaOf e ∧ betaOf e ≤ gamma ∧ (2 : ℚ) ^ (betaOf e - 1) ≤ 2 ^ e * 10 ^ (-decimalScale e) ∧
    (2 : ℚ) ^ e * 10 ^ (-decimalScale e) < 2 ^ betaOf e ∧
    ∀ edge : Bool, 3 / 4 ≤ scaledWidth e (decimalScale e) edge ∧ scaledWidth e (decimalScale e) edge < 10

/-- The split comparison with its memoised tie-break has the outcome of the exact comparison, and keeps `MEMO` a true
verdict: "`compare(kappa)` equals `cmp(kappa)` of rule R217 for every `kappa`", the spec's own inference in R220. -/
def Obligations.CompareIsExact : Prop :=
  ∀ (z delta : ℚ) (memo : Memo) (kappa : Int), 3 / 4 ≤ delta → memoConsistent z delta memo →
    (compareAt z delta memo kappa).1 = exactCmp z delta kappa ∧
      memoConsistent z delta (compareAt z delta memo kappa).2

/-- Acceptance is monotone: what is accepted at kappa is accepted at every smaller kappa: the spec's own
inference, marked derived in R256. -/
def Obligations.AcceptanceMonotone : Prop :=
  ∀ (z delta : ℚ) (cl : Bool) (kappa kappa' : Int), kappa' ≤ kappa → exactAccept z delta cl kappa →
    exactAccept z delta cl kappa'

/-- For every finite nonzero pattern, KMIN is accepted and nothing above KMAX is: the spec's own inference, marked derived
in R255. -/
def Obligations.KappaRangeSuffices : Prop :=
  ∀ (fmt : Fmt) (b : Word) (cl : Bool), patternFits fmt b = true →
    (classifyPattern fmt b).cls.finiteNonzero = true →
    ∀ z delta : ℚ,
      z = scaledUpper (classifyPattern fmt b).f.toNat (classifyPattern fmt b).e
        (decimalScale (classifyPattern fmt b).e) →
      delta = scaledWidth (classifyPattern fmt b).e (decimalScale (classifyPattern fmt b).e)
        (classifyPattern fmt b).edge →
      exactAccept z delta cl kMin ∧ ∀ kappa : Int, fmt.kMax < kappa → ¬exactAccept z delta cl kappa

/-- ZINT is 1 exactly when the scaled upper boundary is an integer (R231), and then `K0` is at most MK_MAX for every
significand and exponent of the format (R236). Both are the spec's own inference, marked derived in these rules. -/
def Obligations.UpperBoundaryIntegerTest : Prop :=
  (∀ (f : Nat) (e : Int),
      zInt f e (decimalScale e) = true ↔ ∃ n : Int, scaledUpper f e (decimalScale e) = (n : ℚ)) ∧
    ∀ (fmt : Fmt) (f : Nat) (e : Int), f < 2 ^ fmt.extPrecision → 0 ≤ decimalScale e →
      zInt f e (decimalScale e) = true → decimalScale e ≤ (fmt.mkMax : Int)

/-- ISPRODINT completes with 1 exactly when `f * 2^x * 10^(-m)` is an integer, for all operands (R230, R245). -/
def Obligations.IsprodintDecidesInteger : Prop :=
  ∀ (fmt : Fmt) (rmode : RMode) (cpol : CasePolicy) (s : State) (f x m : Word),
    s.latched.la.val = f → s.latched.lb.val = x → s.latched.lc.val = m →
    ∃ t r, exec (.isprodint fmt rmode cpol) s = .next t ∧ Completes s t r 0 0 ∧ (r = 0 ∨ r = 1) ∧
      (r = 1 ↔ ∃ n : Int, (f.toNat : ℚ) * 2 ^ x.toInt * 10 ^ (-m.toInt) = (n : ℚ))

/-- IVCMP on a finite nonzero pattern with kappa in range completes with the candidate, `K0` and the comparison word, each
field by its exact meaning and by its number (R57, R216, R217, R220, R240). That the internal registers of R53 to R57 are written is the model's reading
(log entry 9). -/
def Obligations.IvcmpReportsComparison : Prop :=
  ∀ (fmt : Fmt) (rmode : RMode) (cpol : CasePolicy) (s : State) (b kb : Word) (c : Classified) (k0 : Int) (z delta : ℚ),
    s.latched.la.val = b → s.latched.lb.val = kb → rmode.isReserved = false → patternFits fmt b = true →
    c = classifyPattern fmt b → c.cls.finiteNonzero = true → kMin ≤ kb.toInt → kb.toInt ≤ fmt.kMax →
    k0 = decimalScale c.e → z = scaledUpper c.f.toNat c.e k0 → delta = scaledWidth c.e k0 c.edge →
    ∃ (t : State) (r0 r1 w : Word) (cl cr : Bool),
      exec (.ivcmp fmt rmode cpol) s = .next t ∧ policyOf rmode c.sgn c.f.toNat = some (cl, cr) ∧
        BankCompleted s t r0 r1 w ∧ (r0.toNat : Int) = candidate z kb.toInt ∧ r1.toInt = k0 ∧
        (w.extractLsb' 0 2).toNat = (match exactCmp z delta kb.toInt with | .lt => 0 | .eq => 1 | .gt => 2) ∧
        (w.getLsbD 2 = true ↔ exactAccept z delta cl kb.toInt) ∧
        (w.getLsbD 3 = true ↔ remainder z kb.toInt = 0) ∧
        w.getLsbD 4 = c.edge ∧ w.getLsbD 5 = cl ∧ w.getLsbD 6 = cr ∧ w.getLsbD 7 = false ∧
        ((w.extractLsb' 8 3).toNat : Int) = betaOf c.e ∧ w.getLsbD 11 = false ∧
        ((w.extractLsb' 12 4).toNat : Int) = ⌊delta⌋ ∧
        (w.getLsbD 16 = true ↔ ∃ n : Int, z = (n : ℚ)) ∧
        (w.extractLsb' 17 2).toNat =
          (match t.memo with | .notCompared => 0 | .z2Larger => 1 | .z2Smaller => 2 | .z2Same => 3) ∧
        w.extractLsb' 19 45 = 0 ∧
        t.memo = (if 0 ≤ kb.toInt ∧ ⌊z⌋ % 10 ^ kb.toInt.toNat = ⌊delta⌋ then
            (if Int.fract delta < Int.fract z then .z2Larger
             else if Int.fract z < Int.fract delta then .z2Smaller else .z2Same)
          else .notCompared) ∧
        t.cls = classRegs c ∧
        t.scale = ⟨.holds cl, .holds cr, .holds k0, .holds (BitVec.ofInt 3 (betaOf c.e)),
          .holds (romEntry fmt (-k0)), .holds z, .holds delta⟩ ∧
        t.search = s.search ∧ t.env = s.env

/-- IVCMP with kappa outside [KMIN, KMAX] takes RANGE, where no earlier check fails (R240, R321; fault entry R346). That
the internal registers stay is log entry 16 (R343 leaves it open). -/
def Obligations.IvcmpRangeFault : Prop :=
  ∀ (fmt : Fmt) (rmode : RMode) (cpol : CasePolicy) (s : State) (w b kb : Word),
    s.latched.lcmd.val = w → s.latched.la.val = b → s.latched.lb.val = kb → rmode.isReserved = false →
    patternFits fmt b = true → (cpol = .ignore ∨ (classifyPattern fmt b).cls.finiteNonzero = true) →
    (kb.toInt < kMin ∨ fmt.kMax < kb.toInt) →
    ∃ t, exec (.ivcmp fmt rmode cpol) s = .next t ∧ Faults .range w s t

/-! ## Policy and classification -/

/-- POLICY completes with CL in bit 0 and CR in bit 1 by the table of R290, for every pattern, finite or not (R290,
R295). -/
def Obligations.PolicyFlags : Prop :=
  ∀ (fmt : Fmt) (rmode : RMode) (cpol : CasePolicy) (s : State) (b : Word),
    s.latched.la.val = b → rmode.isReserved = false → patternFits fmt b = true →
    ∃ t r cl cr, exec (.policy fmt rmode cpol) s = .next t ∧ Completes s t r 0 0 ∧
      r.toNat = (if cl then 1 else 0) + 2 * (if cr then 1 else 0) ∧
      (rmode = .rne → ((cl = true ↔ b.getLsbD 0 = false) ∧ (cr = true ↔ b.getLsbD 0 = false))) ∧
      (rmode = .rtz → cl = false ∧ cr = true) ∧
      (rmode = .rdn → cl = b.getLsbD (fmt.width - 1) ∧ cr = !b.getLsbD (fmt.width - 1)) ∧
      (rmode = .rup → cl = !b.getLsbD (fmt.width - 1) ∧ cr = b.getLsbD (fmt.width - 1)) ∧
      (rmode = .fast → cl = true ∧ cr = true)

/-- CLASSIFY completes with the significand, the exponent and the class word of R300 to R303, for every pattern of its
format (R315); the internal registers are not written. -/
def Obligations.ClassifyReport : Prop :=
  ∀ (fmt : Fmt) (rmode : RMode) (cpol : CasePolicy) (s : State) (b : Word) (m eb : Nat),
    s.latched.la.val = b → patternFits fmt b = true → m = (b.extractLsb' 0 fmt.precision).toNat →
    eb = (b.extractLsb' fmt.precision fmt.expWidth).toNat →
    ∃ t r0 r1 r2, exec (.classify fmt rmode cpol) s = .next t ∧ Completes s t r0 r1 r2 ∧
      r0.toNat = (if eb = 0 then m else m + 2 ^ fmt.precision) ∧
      r1.toInt = (if eb = 0 then 1 else (eb : Int)) - fmt.bias - fmt.precision ∧
      r2.getLsbD 0 = b.getLsbD (fmt.width - 1) ∧ (r2.getLsbD 1 = true ↔ m = 0 ∧ 1 < eb) ∧
      (r2.extractLsb' 2 3).toNat =
        (if eb = 0 then (if m = 0 then 0 else 1)
         else if eb = 2 ^ fmt.expWidth - 1 then (if m = 0 then 3 else 4) else 2) ∧
      r2.extractLsb' 5 11 = 0 ∧ (r2.extractLsb' 16 16).toNat = eb ∧ r2.extractLsb' 32 32 = 0

/-- What the classification of a pattern of its format satisfies: the significand has XP bits, a finite nonzero pattern has
`1 <= f` and an exponent in [EMIN, EMAXF], and an edge case has the significand `2^p`: what R302 to R305 say of the
ranges, in part the spec's own inference (R304, R305 marked derived). -/
def Obligations.ClassificationBounds : Prop :=
  ∀ (fmt : Fmt) (b : Word) (c : Classified), patternFits fmt b = true → c = classifyPattern fmt b →
    c.f.toNat < 2 ^ fmt.extPrecision ∧ fmt.eMin ≤ c.e ∧ c.e ≤ fmt.eMaxF + 1 ∧
      (c.cls.finiteNonzero = true → 1 ≤ c.f.toNat ∧ c.e ≤ fmt.eMaxF) ∧
      (c.cls = .normal → 2 ^ fmt.precision ≤ c.f.toNat) ∧
      (c.cls = .subnormal → c.f.toNat < 2 ^ fmt.precision ∧ c.e = fmt.eMin) ∧
      (c.edge = true → c.f.toNat = 2 ^ fmt.precision ∧ fmt.eMin < c.e)

/-! ## The checks of the pattern commands -/

/-- BAD_OPERAND: a reserved RMODE in CONVERT, POLICY or IVCMP, whatever the operand; and a binary32 pattern with a nonzero
upper half in CONVERT, CLASSIFY, POLICY or IVCMP, whatever the mode (R123; fault entry R346). That the internal registers
stay in CONVERT and IVCMP is log entry 16 (R343 leaves it open). -/
def Obligations.BadOperandFaults : Prop :=
  ∀ (fmt : Fmt) (rmode : RMode) (cpol : CasePolicy) (s : State) (w b kb : Word),
    s.latched.lcmd.val = w → s.latched.la.val = b → s.latched.lb.val = kb →
    (rmode.isReserved = true →
      (∃ t, exec (.convert fmt rmode cpol) s = .next t ∧ Faults .badOperand w s t) ∧
        (∃ t, exec (.policy fmt rmode cpol) s = .next t ∧ Faults .badOperand w s t) ∧
        ∃ t, exec (.ivcmp fmt rmode cpol) s = .next t ∧ Faults .badOperand w s t) ∧
      (2 ^ 32 ≤ b.toNat →
        (∃ t, exec (.convert .binary32 rmode cpol) s = .next t ∧ Faults .badOperand w s t) ∧
          (∃ t, exec (.classify .binary32 rmode cpol) s = .next t ∧ Faults .badOperand w s t) ∧
          (∃ t, exec (.policy .binary32 rmode cpol) s = .next t ∧ Faults .badOperand w s t) ∧
          ∃ t, exec (.ivcmp .binary32 rmode cpol) s = .next t ∧ Faults .badOperand w s t)

/-- Under ASSERT_FINITE a zero, infinity or NaN takes NOT_FINITE_NONZERO in CONVERT and IVCMP, where the decoding checks
pass, and before any RANGE check (R311, R321; fault entry R346). That the internal registers stay is log entry 16 (R343 leaves
it open). -/
def Obligations.NotFiniteFaults : Prop :=
  ∀ (fmt : Fmt) (rmode : RMode) (s : State) (w b kb : Word),
    s.latched.lcmd.val = w → s.latched.la.val = b → s.latched.lb.val = kb → rmode.isReserved = false →
    patternFits fmt b = true → (classifyPattern fmt b).cls.finiteNonzero = false →
    (∃ t, exec (.convert fmt rmode .assertFinite) s = .next t ∧ Faults .notFiniteNonzero w s t) ∧
      ∃ t, exec (.ivcmp fmt rmode .assertFinite) s = .next t ∧ Faults .notFiniteNonzero w s t

/-! ## Conversion -/

/-- The EXEC step of CONVERT on a finite nonzero pattern, under either case policy: the classification registers are
written, the next step is CV_SCALE, and nothing else changes (R310, R320, R325). -/
def Obligations.ConvertClassifiesThenScales : Prop :=
  ∀ (fmt : Fmt) (rmode : RMode) (cpol : CasePolicy) (s : State) (b : Word),
    s.latched.la.val = b → rmode.isReserved = false → patternFits fmt b = true →
    (classifyPattern fmt b).cls.finiteNonzero = true →
    ∃ t, exec (.convert fmt rmode cpol) s = .next t ∧ t.seq = .cvScale ∧ t.cls = classRegs (classifyPattern fmt b) ∧
      t.bank = s.bank ∧ t.latched = s.latched ∧ t.scale = s.scale ∧ t.memo = s.memo ∧ t.search = s.search ∧
      t.env = s.env

/-- Under IGNORE a zero, infinity or NaN completes in the EXEC step of CONVERT and of IVCMP, without a fault; the
classification registers take their new values and the scale, memo and search registers stay (R310, R322). The three
results are free values, about which the statement says nothing (log entry 4). -/
def Obligations.IgnoredPatternCompletes : Prop :=
  ∀ (fmt : Fmt) (rmode : RMode) (s : State) (b kb : Word),
    s.latched.la.val = b → s.latched.lb.val = kb → rmode.isReserved = false → patternFits fmt b = true →
    (classifyPattern fmt b).cls.finiteNonzero = false →
    (∃ t r0 r1 r2, exec (.convert fmt rmode .ignore) s = .next t ∧ BankCompleted s t r0 r1 r2 ∧
        t.cls = classRegs (classifyPattern fmt b) ∧ t.scale = s.scale ∧ t.memo = s.memo ∧ t.search = s.search ∧
        t.env.inbox = s.env.inbox ∧ t.env.resp = s.env.resp) ∧
      (kMin ≤ kb.toInt → kb.toInt ≤ fmt.kMax →
        ∃ t r0 r1 r2, exec (.ivcmp fmt rmode .ignore) s = .next t ∧ BankCompleted s t r0 r1 r2 ∧
          t.cls = classRegs (classifyPattern fmt b) ∧ t.scale = s.scale ∧ t.memo = s.memo ∧ t.search = s.search ∧
          t.env.inbox = s.env.inbox ∧ t.env.resp = s.env.resp)

/-- With a quiet host (an empty inbox, log entry 2) the search settles on the greatest accepted kappa: from CV_INIT of a running conversion, in at most 5 steps (4 for
binary32), CV_SETTLE is reached with that kappa in KQ: "`search() = kappa_q` for every input", the spec's own inference
in R257; the counts are those of R266. `SearchKeepsBracket` speaks of any host. -/
def Obligations.SearchSettlesOnGreatestKappa : Prop :=
  ∀ (fmt : Fmt) (rmode : RMode) (cpol : CasePolicy) (b : Word) (s : State) (v : ScaleValues),
    Inv s → ConvertInv fmt rmode cpol b s → s.env.inbox = [] → s.seq = .cvInit → s.scale = scaleRegs v →
    ∃ (n : Nat) (t : State) (kq : Int), n ≤ (match fmt with | .binary32 => 4 | .binary64 => 5) ∧
      Host.Core.run Sys2Proof.core n s = .next t ∧ t.seq = .cvSettle ∧ t.search.kq = .holds kq ∧
      exactAccept v.z v.delta v.cl kq ∧ (∀ kappa : Int, kq < kappa → ¬exactAccept v.z v.delta v.cl kappa) ∧
      t.scale = s.scale ∧ t.cls = s.cls ∧ t.bank = s.bank ∧ t.latched = s.latched

/-- The loop invariant of the search is kept by every step, of the sequencer, the host or the reset signal: the spec's own
inference, R257 ("the invariant is that", upward and downward, and "At the end"), with the condition of R264 under which the
tail is entered. -/
def Obligations.SearchKeepsBracket : Prop :=
  ∀ s t : State, Inv s → BracketInv s → step s = .next t → BracketInv t

/-- Where a step of a running conversion completes it, the results are those of the result law, whatever the host has done
before: the step may be taken in any state of the two invariants. Its layout is that of R326, its frame that of R47. The
spec's own inference, R267 (R250, with the interval of R211 and the flags of R290). -/
def Obligations.CompletionMeetsResultLaw : Prop :=
  ∀ (fmt : Fmt) (rmode : RMode) (cpol : CasePolicy) (b : Word) (s t : State) (c : Classified),
    Inv s → BracketInv s → s.seq.converting = true → ConvertInv fmt rmode cpol b s → c = classifyPattern fmt b →
    sequencerStep s = .next t → t.seq = .idle →
    ∃ (r0 r1 r2 : Word) (cl cr : Bool), BankCompleted s t r0 r1 r2 ∧ t.env = s.env ∧
      policyOf rmode c.sgn c.f.toNat = some (cl, cr) ∧
      IsShortest (inInterval c.f.toNat c.e c.edge cl cr) (r0.toNat : Int) r1.toInt ∧
      r2.toNat = (if c.sgn then 1 else 0)

/-- With a quiet host (an empty inbox, log entry 2), CONVERT of a finite nonzero pattern: in at most 9 sequencer steps (8 for binary32) the block completes with the result
of the result law, the greatest exponent that has a multiple in the rounding interval and the greatest such multiple, with
the sign of the input; nothing else of the register bank changes (R250, with the interval of R211 and the
flags of R290; the layout is that of R326, the frame that of R47, and the step counts are those of R397).
`CompletionMeetsResultLaw` speaks of any host. -/
def Obligations.ConvertMeetsResultLaw : Prop :=
  ∀ (fmt : Fmt) (rmode : RMode) (cpol : CasePolicy) (b : Word) (s : State) (c : Classified),
    ConvertReady fmt rmode cpol b s → c = classifyPattern fmt b →
    ∃ (k : Nat) (t : State) (r0 r1 r2 : Word) (cl cr : Bool),
      k ≤ (match fmt with | .binary32 => 8 | .binary64 => 9) ∧
        Host.Core.run Sys2Proof.core k s = .next t ∧ BankCompleted s t r0 r1 r2 ∧ t.env = s.env ∧
        policyOf rmode c.sgn c.f.toNat = some (cl, cr) ∧
        IsShortest (inInterval c.f.toNat c.e c.edge cl cr) (r0.toNat : Int) r1.toInt ∧
        r2.toNat = (if c.sgn then 1 else 0)

/-- A conversion's result depends on the format, the rounding policy and the pattern alone: not on the case policy, on what
any other register held before, on the other operands, or on host activity during the conversion. The spec's own inference,
R327 item 5, "Determinism". First with any host: two running conversions in any states of the two invariants, each about to
complete, complete with the same results. Then as two runs with a quiet host (an empty inbox, log entry 2), which complete after
the same number of steps. -/
def Obligations.ResultDependsOnFormatPolicyPattern : Prop :=
  ∀ (fmt : Fmt) (rmode : RMode) (cpol cpol' : CasePolicy) (b : Word) (s s' : State),
    (∀ t t' : State, Inv s → Inv s' → BracketInv s → BracketInv s' → s.seq.converting = true → s'.seq.converting = true →
      ConvertInv fmt rmode cpol b s → ConvertInv fmt rmode cpol' b s' → sequencerStep s = .next t →
      sequencerStep s' = .next t' → t.seq = .idle → t'.seq = .idle →
      t.bank.res0 = t'.bank.res0 ∧ t.bank.res1 = t'.bank.res1 ∧ t.bank.res2 = t'.bank.res2) ∧
    (ConvertReady fmt rmode cpol b s → ConvertReady fmt rmode cpol' b s' →
      ∃ (k : Nat) (t t' : State), Host.Core.run Sys2Proof.core k s = .next t ∧
        Host.Core.run Sys2Proof.core k s' = .next t' ∧ t.seq = .idle ∧ t'.seq = .idle ∧
        t.bank.res0 = t'.bank.res0 ∧ t.bank.res1 = t'.bank.res1 ∧ t.bank.res2 = t'.bank.res2)

/-- Properties of any result that meets the result law. It is no multiple of 10, and it lies between the edges of the
interval, on an edge only where the policy contains it (R252 items 1 and 2). No decimal of the interval has fewer digits, and
among those with as few it is the largest (R251, R327 items 2 and 3). For a finite nonzero pattern, `E*` is at least `K0 - 1`,
and `s*` and `E*` lie in the ranges of their format (R252 items 3 and 4, R326). All are the spec's own inference, marked
derived in R251, R252 and R327. -/
def Obligations.ResultLawProperties : Prop :=
  (∀ (f : Nat) (e : Int) (edge cl cr : Bool) (n x : Int), IsShortest (inInterval f e edge cl cr) n x → 1 ≤ f →
      ¬(10 : Int) ∣ n ∧ (n : ℚ) * 10 ^ x ≤ upperEdge f e ∧ lowerEdge f e edge ≤ (n : ℚ) * 10 ^ x ∧
        ((n : ℚ) * 10 ^ x = upperEdge f e → cr = true) ∧ ((n : ℚ) * 10 ^ x = lowerEdge f e edge → cl = true) ∧
        ∀ n' x' : Int, 1 ≤ n' → inInterval f e edge cl cr ((n' : ℚ) * 10 ^ x') →
          digitCount n ≤ digitCount n' ∧ (digitCount n' = digitCount n → (n' : ℚ) * 10 ^ x' ≤ (n : ℚ) * 10 ^ x)) ∧
    ∀ (fmt : Fmt) (b : Word) (cl cr : Bool) (c : Classified) (n x : Int), patternFits fmt b = true →
      c = classifyPattern fmt b → c.cls.finiteNonzero = true →
      IsShortest (inInterval c.f.toNat c.e c.edge cl cr) n x →
      decimalScale c.e - 1 ≤ x ∧ (fmt = .binary32 → n < 2 ^ 31 ∧ -46 ≤ x ∧ x ≤ 38) ∧
        (fmt = .binary64 → n < 2 ^ 60 ∧ -325 ≤ x ∧ x ≤ 308)
end

