-- ==== Sys2Proof/Laws/Exact.lean ====
section
/-! SUPPORT. Facts of the exact arithmetic: the candidate and its remainder (R216), the memoised verdict (R221), and that the
guarded divisibility test of R230 is the plain one. -/

namespace Sys2Proof.Machine

theorem pow10_pos (kappa : Int) : (0 : ℚ) < 10 ^ kappa := by positivity

/-- The candidate and the remainder make up `Z` (R216). -/
theorem candidate_add_remainder (z : ℚ) (kappa : Int) :
    (candidate z kappa : ℚ) * 10 ^ kappa + remainder z kappa = z := by
  simp [remainder]

/-- `0 <= r(kappa)` (R216). -/
theorem remainder_nonneg (z : ℚ) (kappa : Int) : 0 ≤ remainder z kappa := by
  have h := Int.floor_le (z / 10 ^ kappa)
  rw [le_div_iff₀ (pow10_pos kappa)] at h
  simp only [remainder, candidate]
  linarith

/-- `r(kappa) < 10^kappa` (R216). -/
theorem remainder_lt (z : ℚ) (kappa : Int) : remainder z kappa < 10 ^ kappa := by
  have h := Int.lt_floor_add_one (z / 10 ^ kappa)
  rw [div_lt_iff₀ (pow10_pos kappa)] at h
  simp only [remainder, candidate]
  linarith

/-- The candidate is the greatest integer whose multiple of `10^kappa` is at most `Z` (R216). -/
theorem le_candidate_iff (z : ℚ) (kappa n : Int) : n ≤ candidate z kappa ↔ (n : ℚ) * 10 ^ kappa ≤ z := by
  rw [candidate, Int.le_floor, le_div_iff₀ (pow10_pos kappa)]

/-- A verdict from scratch is never NOT_COMPARED (R221). -/
theorem freshVerdict_ne_notCompared (z delta : ℚ) : freshVerdict z delta ≠ .notCompared := by
  unfold freshVerdict
  split
  · simp
  · split <;> simp

/-- The verdict is computed at most once: consulting it again changes nothing (R221). -/
theorem memoVerdict_idempotent (z delta : ℚ) (memo : Memo) :
    memoVerdict z delta (memoVerdict z delta memo) = memoVerdict z delta memo := by
  cases memo with
  | notCompared =>
    simp only [memoVerdict]
    cases h : freshVerdict z delta with
    | notCompared => exact absurd h (freshVerdict_ne_notCompared z delta)
    | z2Larger => rfl
    | z2Smaller => rfl
    | z2Same => rfl
  | z2Larger => rfl
  | z2Smaller => rfl
  | z2Same => rfl

/-- A comparison leaves `MEMO` alone or sets it to the verdict (R220). -/
theorem compareAt_memo (z delta : ℚ) (memo : Memo) (kappa : Int) :
    (compareAt z delta memo kappa).2 = memo ∨ (compareAt z delta memo kappa).2 = memoVerdict z delta memo := by
  simp only [compareAt]
  split
  · simp
  · split
    · simp
    · split <;> simp

/-- The guarded test is the plain one, for `f != 0` (R230). -/
theorem pow5Divides_iff {m f : Nat} (hf : f ≠ 0) : pow5Divides m f = true ↔ f % 5 ^ m = 0 := by
  simp only [pow5Divides, Bool.and_eq_true, decide_eq_true_eq, and_iff_right_iff_imp]
  intro h
  have hle : 5 ^ m ≤ f := Nat.le_of_dvd (Nat.pos_of_ne_zero hf) (Nat.dvd_of_mod_eq_zero h)
  exact Nat.le_log_of_pow_le (by norm_num) hle

theorem v2Fuel_dvd (fuel n : Nat) : 2 ^ v2Fuel fuel n ∣ n := by
  induction fuel generalizing n with
  | zero => simp [v2Fuel]
  | succ fuel ih =>
    simp only [v2Fuel]
    split
    · next h =>
      obtain ⟨c, hc⟩ := ih (n / 2)
      refine ⟨c, ?_⟩
      rw [pow_succ]
      have hn : n = 2 * (n / 2) := by omega
      calc n = 2 * (n / 2) := hn
        _ = 2 * (2 ^ v2Fuel fuel (n / 2) * c) := by rw [← hc]
        _ = 2 ^ v2Fuel fuel (n / 2) * 2 * c := by ring
    · simp

/-- `2^v2(n)` divides `n` (R14). -/
theorem v2_dvd (n : Nat) : 2 ^ v2 n ∣ n := v2Fuel_dvd _ n

theorem v2Fuel_greatest (fuel n : Nat) (hn : n ≠ 0) (hfuel : Nat.log 2 n ≤ fuel) : ¬2 ^ (v2Fuel fuel n + 1) ∣ n := by
  induction fuel generalizing n with
  | zero =>
    have h1 : n < 2 := by
      by_contra h
      have := Nat.log_pos (b := 2) (by norm_num) (by omega : 2 ≤ n)
      omega
    have : n = 1 := by omega
    subst this
    simp [v2Fuel]
  | succ fuel ih =>
    simp only [v2Fuel]
    split
    · next h =>
      have hlog : Nat.log 2 (n / 2) ≤ fuel := by
        rw [Nat.log_div_base]; omega
      have hne : n / 2 ≠ 0 := by omega
      intro hd
      refine ih (n / 2) hne hlog ?_
      obtain ⟨c, hc⟩ := hd
      refine ⟨c, ?_⟩
      rw [pow_succ, mul_comm, ← mul_assoc] at hc
      have h2 : n / 2 * 2 = n := by omega
      have : n / 2 * 2 = 2 ^ (v2Fuel fuel (n / 2) + 1) * c * 2 := by
        rw [h2]; linarith
      omega
    · next h =>
      intro hd
      have : 2 ∣ n := by simpa using hd
      omega

/-- `v2(n)` is the largest such exponent, for `n != 0` (R14). -/
theorem v2_greatest {n : Nat} (hn : n ≠ 0) : ¬2 ^ (v2 n + 1) ∣ n := v2Fuel_greatest _ n hn le_rfl

end Sys2Proof.Machine
end

