-- ==== Sys2Proof/Laws/State.lean ====
section
/-! SUPPORT. One lemma per field per update of the state, each true by definition, so that no later proof unfolds a record
update. -/

namespace Sys2Proof.Machine

/-! ## STATUS -/

@[simp] theorem Status.accepted_busy (st : Status) : st.accepted.busy = true := rfl
@[simp] theorem Status.accepted_done (st : Status) : st.accepted.done = false := rfl
@[simp] theorem Status.accepted_fault (st : Status) : st.accepted.fault = st.fault := rfl
@[simp] theorem Status.accepted_ovr (st : Status) : st.accepted.ovr = false := rfl
@[simp] theorem Status.accepted_fcode (st : Status) : st.accepted.fcode = st.fcode := rfl
@[simp] theorem Status.accepted_fop (st : Status) : st.accepted.fop = st.fop := rfl

@[simp] theorem Status.overrun_busy (st : Status) : st.overrun.busy = st.busy := rfl
@[simp] theorem Status.overrun_done (st : Status) : st.overrun.done = st.done := rfl
@[simp] theorem Status.overrun_fault (st : Status) : st.overrun.fault = st.fault := rfl
@[simp] theorem Status.overrun_ovr (st : Status) : st.overrun.ovr = true := rfl
@[simp] theorem Status.overrun_fcode (st : Status) : st.overrun.fcode = st.fcode := rfl
@[simp] theorem Status.overrun_fop (st : Status) : st.overrun.fop = st.fop := rfl

@[simp] theorem Status.completed_busy (st : Status) : st.completed.busy = false := rfl
@[simp] theorem Status.completed_done (st : Status) : st.completed.done = true := rfl
@[simp] theorem Status.completed_fault (st : Status) : st.completed.fault = st.fault := rfl
@[simp] theorem Status.completed_ovr (st : Status) : st.completed.ovr = st.ovr := rfl
@[simp] theorem Status.completed_fcode (st : Status) : st.completed.fcode = st.fcode := rfl
@[simp] theorem Status.completed_fop (st : Status) : st.completed.fop = st.fop := rfl

@[simp] theorem Status.faulted_busy (st : Status) (code : FaultCode) (op : BitVec 8) : (st.faulted code op).busy = false := rfl
@[simp] theorem Status.faulted_done (st : Status) (code : FaultCode) (op : BitVec 8) : (st.faulted code op).done = false := rfl
@[simp] theorem Status.faulted_fault (st : Status) (code : FaultCode) (op : BitVec 8) : (st.faulted code op).fault = true := rfl
@[simp] theorem Status.faulted_ovr (st : Status) (code : FaultCode) (op : BitVec 8) : (st.faulted code op).ovr = st.ovr := rfl
@[simp] theorem Status.faulted_fcode (st : Status) (code : FaultCode) (op : BitVec 8) : (st.faulted code op).fcode = code := rfl
@[simp] theorem Status.faulted_fop (st : Status) (code : FaultCode) (op : BitVec 8) : (st.faulted code op).fop = op := rfl

/-! ## The operations of a command's life: acceptance, overrun, completion, fault entry -/

@[simp] theorem accept_cmd (v : Word) (s : State) : (accept v s).bank.cmd = v := rfl
@[simp] theorem accept_opa (v : Word) (s : State) : (accept v s).bank.opa = s.bank.opa := rfl
@[simp] theorem accept_opb (v : Word) (s : State) : (accept v s).bank.opb = s.bank.opb := rfl
@[simp] theorem accept_opc (v : Word) (s : State) : (accept v s).bank.opc = s.bank.opc := rfl
@[simp] theorem accept_res0 (v : Word) (s : State) : (accept v s).bank.res0 = s.bank.res0 := rfl
@[simp] theorem accept_res1 (v : Word) (s : State) : (accept v s).bank.res1 = s.bank.res1 := rfl
@[simp] theorem accept_res2 (v : Word) (s : State) : (accept v s).bank.res2 = s.bank.res2 := rfl
@[simp] theorem accept_status (v : Word) (s : State) : (accept v s).bank.status = s.bank.status.accepted := rfl
@[simp] theorem accept_seq (v : Word) (s : State) : (accept v s).seq = .exec := rfl
@[simp] theorem accept_latched (v : Word) (s : State) : (accept v s).latched = ⟨.holds v, .holds s.bank.opa, .holds s.bank.opb, .holds s.bank.opc⟩ := rfl
@[simp] theorem accept_cls (v : Word) (s : State) : (accept v s).cls = s.cls := rfl
@[simp] theorem accept_scale (v : Word) (s : State) : (accept v s).scale = s.scale := rfl
@[simp] theorem accept_memo (v : Word) (s : State) : (accept v s).memo = s.memo := rfl
@[simp] theorem accept_search (v : Word) (s : State) : (accept v s).search = s.search := rfl
@[simp] theorem accept_env (v : Word) (s : State) : (accept v s).env = s.env := rfl

@[simp] theorem overrun_cmd (s : State) : (overrun s).bank.cmd = s.bank.cmd := rfl
@[simp] theorem overrun_opa (s : State) : (overrun s).bank.opa = s.bank.opa := rfl
@[simp] theorem overrun_opb (s : State) : (overrun s).bank.opb = s.bank.opb := rfl
@[simp] theorem overrun_opc (s : State) : (overrun s).bank.opc = s.bank.opc := rfl
@[simp] theorem overrun_res0 (s : State) : (overrun s).bank.res0 = s.bank.res0 := rfl
@[simp] theorem overrun_res1 (s : State) : (overrun s).bank.res1 = s.bank.res1 := rfl
@[simp] theorem overrun_res2 (s : State) : (overrun s).bank.res2 = s.bank.res2 := rfl
@[simp] theorem overrun_status (s : State) : (overrun s).bank.status = s.bank.status.overrun := rfl
@[simp] theorem overrun_seq (s : State) : (overrun s).seq = s.seq := rfl
@[simp] theorem overrun_latched (s : State) : (overrun s).latched = s.latched := rfl
@[simp] theorem overrun_cls (s : State) : (overrun s).cls = s.cls := rfl
@[simp] theorem overrun_scale (s : State) : (overrun s).scale = s.scale := rfl
@[simp] theorem overrun_memo (s : State) : (overrun s).memo = s.memo := rfl
@[simp] theorem overrun_search (s : State) : (overrun s).search = s.search := rfl
@[simp] theorem overrun_env (s : State) : (overrun s).env = s.env := rfl

@[simp] theorem complete_cmd (r0 r1 r2 : Word) (s : State) : (complete r0 r1 r2 s).bank.cmd = s.bank.cmd := rfl
@[simp] theorem complete_opa (r0 r1 r2 : Word) (s : State) : (complete r0 r1 r2 s).bank.opa = s.bank.opa := rfl
@[simp] theorem complete_opb (r0 r1 r2 : Word) (s : State) : (complete r0 r1 r2 s).bank.opb = s.bank.opb := rfl
@[simp] theorem complete_opc (r0 r1 r2 : Word) (s : State) : (complete r0 r1 r2 s).bank.opc = s.bank.opc := rfl
@[simp] theorem complete_res0 (r0 r1 r2 : Word) (s : State) : (complete r0 r1 r2 s).bank.res0 = r0 := rfl
@[simp] theorem complete_res1 (r0 r1 r2 : Word) (s : State) : (complete r0 r1 r2 s).bank.res1 = r1 := rfl
@[simp] theorem complete_res2 (r0 r1 r2 : Word) (s : State) : (complete r0 r1 r2 s).bank.res2 = r2 := rfl
@[simp] theorem complete_status (r0 r1 r2 : Word) (s : State) : (complete r0 r1 r2 s).bank.status = s.bank.status.completed := rfl
@[simp] theorem complete_seq (r0 r1 r2 : Word) (s : State) : (complete r0 r1 r2 s).seq = .idle := rfl
@[simp] theorem complete_latched (r0 r1 r2 : Word) (s : State) : (complete r0 r1 r2 s).latched = s.latched := rfl
@[simp] theorem complete_cls (r0 r1 r2 : Word) (s : State) : (complete r0 r1 r2 s).cls = s.cls := rfl
@[simp] theorem complete_scale (r0 r1 r2 : Word) (s : State) : (complete r0 r1 r2 s).scale = s.scale := rfl
@[simp] theorem complete_memo (r0 r1 r2 : Word) (s : State) : (complete r0 r1 r2 s).memo = s.memo := rfl
@[simp] theorem complete_search (r0 r1 r2 : Word) (s : State) : (complete r0 r1 r2 s).search = s.search := rfl
@[simp] theorem complete_env (r0 r1 r2 : Word) (s : State) : (complete r0 r1 r2 s).env = s.env := rfl

@[simp] theorem completeDrawn_cmd (s : State) : (completeDrawn s).bank.cmd = s.bank.cmd := rfl
@[simp] theorem completeDrawn_opa (s : State) : (completeDrawn s).bank.opa = s.bank.opa := rfl
@[simp] theorem completeDrawn_opb (s : State) : (completeDrawn s).bank.opb = s.bank.opb := rfl
@[simp] theorem completeDrawn_opc (s : State) : (completeDrawn s).bank.opc = s.bank.opc := rfl
@[simp] theorem completeDrawn_res0 (s : State) : (completeDrawn s).bank.res0 = Config.freeDraw s.env.draws := rfl
@[simp] theorem completeDrawn_res1 (s : State) : (completeDrawn s).bank.res1 = Config.freeDraw (s.env.draws + 1) := rfl
@[simp] theorem completeDrawn_res2 (s : State) : (completeDrawn s).bank.res2 = Config.freeDraw (s.env.draws + 2) := rfl
@[simp] theorem completeDrawn_status (s : State) : (completeDrawn s).bank.status = s.bank.status.completed := rfl
@[simp] theorem completeDrawn_seq (s : State) : (completeDrawn s).seq = .idle := rfl
@[simp] theorem completeDrawn_latched (s : State) : (completeDrawn s).latched = s.latched := rfl
@[simp] theorem completeDrawn_cls (s : State) : (completeDrawn s).cls = s.cls := rfl
@[simp] theorem completeDrawn_scale (s : State) : (completeDrawn s).scale = s.scale := rfl
@[simp] theorem completeDrawn_memo (s : State) : (completeDrawn s).memo = s.memo := rfl
@[simp] theorem completeDrawn_search (s : State) : (completeDrawn s).search = s.search := rfl
@[simp] theorem completeDrawn_env (s : State) : (completeDrawn s).env = { s.env with draws := s.env.draws + 3 } := rfl

@[simp] theorem faultEntry_cmd (code : FaultCode) (w : Word) (s : State) : (faultEntry code w s).bank.cmd = s.bank.cmd := rfl
@[simp] theorem faultEntry_opa (code : FaultCode) (w : Word) (s : State) : (faultEntry code w s).bank.opa = s.bank.opa := rfl
@[simp] theorem faultEntry_opb (code : FaultCode) (w : Word) (s : State) : (faultEntry code w s).bank.opb = s.bank.opb := rfl
@[simp] theorem faultEntry_opc (code : FaultCode) (w : Word) (s : State) : (faultEntry code w s).bank.opc = s.bank.opc := rfl
@[simp] theorem faultEntry_res0 (code : FaultCode) (w : Word) (s : State) : (faultEntry code w s).bank.res0 = s.bank.res0 := rfl
@[simp] theorem faultEntry_res1 (code : FaultCode) (w : Word) (s : State) : (faultEntry code w s).bank.res1 = s.bank.res1 := rfl
@[simp] theorem faultEntry_res2 (code : FaultCode) (w : Word) (s : State) : (faultEntry code w s).bank.res2 = s.bank.res2 := rfl
@[simp] theorem faultEntry_status (code : FaultCode) (w : Word) (s : State) : (faultEntry code w s).bank.status = s.bank.status.faulted code (opField w) := rfl
@[simp] theorem faultEntry_seq (code : FaultCode) (w : Word) (s : State) : (faultEntry code w s).seq = .faulted := rfl
@[simp] theorem faultEntry_latched (code : FaultCode) (w : Word) (s : State) : (faultEntry code w s).latched = s.latched := rfl
@[simp] theorem faultEntry_cls (code : FaultCode) (w : Word) (s : State) : (faultEntry code w s).cls = s.cls := rfl
@[simp] theorem faultEntry_scale (code : FaultCode) (w : Word) (s : State) : (faultEntry code w s).scale = s.scale := rfl
@[simp] theorem faultEntry_memo (code : FaultCode) (w : Word) (s : State) : (faultEntry code w s).memo = s.memo := rfl
@[simp] theorem faultEntry_search (code : FaultCode) (w : Word) (s : State) : (faultEntry code w s).search = s.search := rfl
@[simp] theorem faultEntry_env (code : FaultCode) (w : Word) (s : State) : (faultEntry code w s).env = s.env := rfl

/-! ## Reset, the host's read, the internal register groups, the inbox -/

@[simp] theorem applyReset_bank (s : State) : (applyReset s).bank = State.reset.bank := rfl
@[simp] theorem applyReset_seq (s : State) : (applyReset s).seq = .idle := rfl
@[simp] theorem applyReset_latched (s : State) : (applyReset s).latched = State.reset.latched := rfl
@[simp] theorem applyReset_cls (s : State) : (applyReset s).cls = State.reset.cls := rfl
@[simp] theorem applyReset_scale (s : State) : (applyReset s).scale = State.reset.scale := rfl
@[simp] theorem applyReset_memo (s : State) : (applyReset s).memo = .notCompared := rfl
@[simp] theorem applyReset_search (s : State) : (applyReset s).search = State.reset.search := rfl
@[simp] theorem applyReset_env (s : State) : (applyReset s).env = s.env := rfl

@[simp] theorem hostRead_bank (r : HostReg) (s : State) : (hostRead r s).bank = s.bank := rfl
@[simp] theorem hostRead_seq (r : HostReg) (s : State) : (hostRead r s).seq = s.seq := rfl
@[simp] theorem hostRead_latched (r : HostReg) (s : State) : (hostRead r s).latched = s.latched := rfl
@[simp] theorem hostRead_cls (r : HostReg) (s : State) : (hostRead r s).cls = s.cls := rfl
@[simp] theorem hostRead_scale (r : HostReg) (s : State) : (hostRead r s).scale = s.scale := rfl
@[simp] theorem hostRead_memo (r : HostReg) (s : State) : (hostRead r s).memo = s.memo := rfl
@[simp] theorem hostRead_search (r : HostReg) (s : State) : (hostRead r s).search = s.search := rfl
@[simp] theorem hostRead_env (r : HostReg) (s : State) : (hostRead r s).env = { s.env with resp := some (s.bank.get r) } := rfl

@[simp] theorem writeClass_bank (c : Classified) (s : State) : (writeClass c s).bank = s.bank := rfl
@[simp] theorem writeClass_seq (c : Classified) (s : State) : (writeClass c s).seq = s.seq := rfl
@[simp] theorem writeClass_latched (c : Classified) (s : State) : (writeClass c s).latched = s.latched := rfl
@[simp] theorem writeClass_cls (c : Classified) (s : State) : (writeClass c s).cls = classRegs c := rfl
@[simp] theorem writeClass_scale (c : Classified) (s : State) : (writeClass c s).scale = s.scale := rfl
@[simp] theorem writeClass_memo (c : Classified) (s : State) : (writeClass c s).memo = s.memo := rfl
@[simp] theorem writeClass_search (c : Classified) (s : State) : (writeClass c s).search = s.search := rfl
@[simp] theorem writeClass_env (c : Classified) (s : State) : (writeClass c s).env = s.env := rfl

@[simp] theorem writeScale_bank (v : ScaleValues) (s : State) : (writeScale v s).bank = s.bank := rfl
@[simp] theorem writeScale_seq (v : ScaleValues) (s : State) : (writeScale v s).seq = s.seq := rfl
@[simp] theorem writeScale_latched (v : ScaleValues) (s : State) : (writeScale v s).latched = s.latched := rfl
@[simp] theorem writeScale_cls (v : ScaleValues) (s : State) : (writeScale v s).cls = s.cls := rfl
@[simp] theorem writeScale_scale (v : ScaleValues) (s : State) : (writeScale v s).scale = scaleRegs v := rfl
@[simp] theorem writeScale_memo (v : ScaleValues) (s : State) : (writeScale v s).memo = .notCompared := rfl
@[simp] theorem writeScale_search (v : ScaleValues) (s : State) : (writeScale v s).search = s.search := rfl
@[simp] theorem writeScale_env (v : ScaleValues) (s : State) : (writeScale v s).env = s.env := rfl

@[simp] theorem popInbox_bank (s : State) : (popInbox s).bank = s.bank := rfl
@[simp] theorem popInbox_seq (s : State) : (popInbox s).seq = s.seq := rfl
@[simp] theorem popInbox_latched (s : State) : (popInbox s).latched = s.latched := rfl
@[simp] theorem popInbox_cls (s : State) : (popInbox s).cls = s.cls := rfl
@[simp] theorem popInbox_scale (s : State) : (popInbox s).scale = s.scale := rfl
@[simp] theorem popInbox_memo (s : State) : (popInbox s).memo = s.memo := rfl
@[simp] theorem popInbox_search (s : State) : (popInbox s).search = s.search := rfl
@[simp] theorem popInbox_env (s : State) : (popInbox s).env = { s.env with inbox := s.env.inbox.tail } := rfl

@[simp] theorem placeTransaction_bank (t : BusWord) (s : State) : (placeTransaction t s).bank = s.bank := rfl
@[simp] theorem placeTransaction_seq (t : BusWord) (s : State) : (placeTransaction t s).seq = s.seq := rfl
@[simp] theorem placeTransaction_latched (t : BusWord) (s : State) : (placeTransaction t s).latched = s.latched := rfl
@[simp] theorem placeTransaction_cls (t : BusWord) (s : State) : (placeTransaction t s).cls = s.cls := rfl
@[simp] theorem placeTransaction_scale (t : BusWord) (s : State) : (placeTransaction t s).scale = s.scale := rfl
@[simp] theorem placeTransaction_memo (t : BusWord) (s : State) : (placeTransaction t s).memo = s.memo := rfl
@[simp] theorem placeTransaction_search (t : BusWord) (s : State) : (placeTransaction t s).search = s.search := rfl
@[simp] theorem placeTransaction_env (t : BusWord) (s : State) : (placeTransaction t s).env = { s.env with inbox := .txn t :: s.env.inbox } := rfl

@[simp] theorem placeCommand_bank (w : Word) (s : State) : (placeCommand w s).bank = (accept w s).bank := rfl
@[simp] theorem placeCommand_seq (w : Word) (s : State) : (placeCommand w s).seq = .exec := rfl
@[simp] theorem placeCommand_latched (w : Word) (s : State) : (placeCommand w s).latched = (accept w s).latched := rfl
@[simp] theorem placeCommand_cls (w : Word) (s : State) : (placeCommand w s).cls = s.cls := rfl
@[simp] theorem placeCommand_scale (w : Word) (s : State) : (placeCommand w s).scale = s.scale := rfl
@[simp] theorem placeCommand_memo (w : Word) (s : State) : (placeCommand w s).memo = s.memo := rfl
@[simp] theorem placeCommand_search (w : Word) (s : State) : (placeCommand w s).search = s.search := rfl
@[simp] theorem placeCommand_env (w : Word) (s : State) : (placeCommand w s).env = { s.env with inbox := .sequencer :: s.env.inbox } := rfl

end Sys2Proof.Machine
end

