-- ==== Sys2Proof/Laws/Ops.lean ====
section
/-! SUPPORT. For each shared operation, one lemma that says once everything it can do; the proofs cite these instead of
unfolding the operation. -/

namespace Sys2Proof.Machine

/-! ## Reading internal registers -/

@[simp] theorem Latch.val_holds {α : Type} (v : α) : (Latch.holds v).val = v := rfl

@[simp] theorem Latch.val_unwritten {α : Type} (v : α) : (Latch.unwritten v).val = v := rfl

/-- A register that a step has written holds its value. -/
theorem Latch.val_of_eq_holds {α : Type} {l : Latch α} {v : α} (h : l = .holds v) : l.val = v := by
  rw [h]; rfl

/-! ## Fault entry and the checks -/

/-- `raise Fault(code)` answers exactly the faulted state of the latched word (R346). -/
theorem raiseFault_eq_next {code : FaultCode} {s t : State} :
    raiseFault code s = .next t ↔ t = faultEntry code s.latched.lcmd.val s := by
  simp [raiseFault, eq_comm]

@[simp] theorem firstFault_nil : firstFault [] = none := rfl

@[simp] theorem firstFault_cons (b : Bool) (code : FaultCode) (rest : List (Bool × FaultCode)) :
    firstFault ((b, code) :: rest) = if b then some code else firstFault rest := rfl

/-- The checks find no fault exactly when none of the conditions holds. -/
theorem firstFault_eq_none {checks : List (Bool × FaultCode)} :
    firstFault checks = none ↔ ∀ c ∈ checks, c.1 = false := by
  induction checks with
  | nil => simp
  | cons c rest ih =>
    obtain ⟨b, code⟩ := c
    cases b <;> simp [ih]

/-- Where all checks pass, the command goes on. -/
theorem checked_pass {checks : List (Bool × FaultCode)} {s : State} {k : Unit → Result}
    (h : firstFault checks = none) : checked checks s k = k () := by
  simp [checked, h]

/-- Where a check fails, its fault is raised and nothing else happens (R321). -/
theorem checked_fail {checks : List (Bool × FaultCode)} {s : State} {k : Unit → Result} {code : FaultCode}
    (h : firstFault checks = some code) : checked checks s k = raiseFault code s := by
  simp [checked, h]

/-- The two ways a checked command leads to a next state. -/
theorem checked_eq_next {checks : List (Bool × FaultCode)} {s t : State} {k : Unit → Result}
    (h : checked checks s k = .next t) :
    (∃ code, firstFault checks = some code ∧ t = faultEntry code s.latched.lcmd.val s) ∨
      (firstFault checks = none ∧ k () = .next t) := by
  unfold checked at h
  split at h
  · next code hc => exact .inl ⟨code, hc, raiseFault_eq_next.1 h⟩
  · next hc => exact .inr ⟨hc, h⟩

/-! ## The register bank -/

/-- A host write of `CMD` is accepted in `IDLE` (R130) and dropped elsewhere (R352). -/
theorem requestCommand_cases (v : Word) (s : State) :
    (s.seq = .idle ∧ requestCommand v s = accept v s) ∨ (s.seq ≠ .idle ∧ requestCommand v s = overrun s) := by
  unfold requestCommand
  split
  · next h => exact .inl ⟨h, rfl⟩
  · next h => exact .inr ⟨h, rfl⟩

/-- A host write leaves the results, the classification, scale, memo and search registers and the environment alone. -/
theorem hostWrite_frame (r : HostReg) (v : Word) (s : State) :
    (hostWrite r v s).bank.res0 = s.bank.res0 ∧ (hostWrite r v s).bank.res1 = s.bank.res1 ∧
      (hostWrite r v s).bank.res2 = s.bank.res2 ∧ (hostWrite r v s).cls = s.cls ∧
      (hostWrite r v s).scale = s.scale ∧ (hostWrite r v s).memo = s.memo ∧
      (hostWrite r v s).search = s.search ∧ (hostWrite r v s).env = s.env := by
  cases r with
  | cmd => rcases requestCommand_cases v s with ⟨_, h⟩ | ⟨_, h⟩ <;> simp [hostWrite, h]
  | opa => simp [hostWrite]
  | opb => simp [hostWrite]
  | opc => simp [hostWrite]
  | res0 => simp [hostWrite]
  | res1 => simp [hostWrite]
  | res2 => simp [hostWrite]
  | status => simp [hostWrite]

/-- Outside `IDLE` a host write leaves the sequencer and the latches alone (R52, R352, R353). -/
theorem hostWrite_frame_of_not_idle {s : State} (h : s.seq ≠ .idle) (r : HostReg) (v : Word) :
    (hostWrite r v s).seq = s.seq ∧ (hostWrite r v s).latched = s.latched := by
  cases r with
  | cmd => simp [hostWrite, requestCommand, h]
  | opa => simp [hostWrite]
  | opb => simp [hostWrite]
  | opc => simp [hostWrite]
  | res0 => simp [hostWrite]
  | res1 => simp [hostWrite]
  | res2 => simp [hostWrite]
  | status => simp [hostWrite]

/-! ## The ROM and the scale step -/

/-- `MemRead` answers the entry exactly inside the index range (R84, R86). -/
theorem memRead_eq_some {fmt : Fmt} {k : Int} {c : BitVec 128} :
    memRead fmt k = some c ↔ (fmt.minK ≤ k ∧ k ≤ fmt.maxK) ∧ c = romEntry fmt k := by
  by_cases h : fmt.minK ≤ k ∧ k ≤ fmt.maxK
  · simp [memRead, romIndexOk, h, eq_comm]
  · simp [memRead, romIndexOk, h]

theorem memRead_eq_none {fmt : Fmt} {k : Int} :
    memRead fmt k = none ↔ ¬(fmt.minK ≤ k ∧ k ≤ fmt.maxK) := by
  simp [memRead, romIndexOk]

/-- A reserved mode has no policy, and every other mode has one (R290). -/
theorem policyOf_eq_none {rmode : RMode} {sgn : Bool} {f : Nat} :
    policyOf rmode sgn f = none ↔ rmode.isReserved = true := by
  cases rmode <;> simp [policyOf, RMode.isReserved]

/-- Everything a successful scale step computes (R260). -/
theorem scaleOf_eq_ok {fmt : Fmt} {rmode : RMode} {sgn : Bool} {f : Nat} {e : Int} {edge : Bool} {v : ScaleValues}
    (h : scaleOf fmt rmode sgn f e edge = .ok v) :
    policyOf rmode sgn f = some (v.cl, v.cr) ∧ v.k0 = decimalScale e ∧ v.beta = BitVec.ofInt 3 (betaOf e) ∧
      memRead fmt (-v.k0) = some v.cent ∧ v.z = scaledUpper f e v.k0 ∧ v.delta = scaledWidth e v.k0 edge := by
  dsimp only [scaleOf] at h
  cases hp : policyOf rmode sgn f with
  | none => simp [hp] at h
  | some p =>
    cases hm : memRead fmt (-decimalScale e) with
    | none => simp [hp, hm] at h
    | some c =>
      simp only [hp, hm, Except.ok.injEq] at h
      subst h
      exact ⟨rfl, rfl, rfl, hm, rfl, rfl⟩

/-- A scale step succeeds where the mode is not reserved and the ROM index is in range. -/
theorem scaleOf_succeeds {fmt : Fmt} {rmode : RMode} {e : Int} (sgn : Bool) (f : Nat) (edge : Bool)
    (hmode : rmode.isReserved = false) (hk : fmt.minK ≤ -decimalScale e ∧ -decimalScale e ≤ fmt.maxK) :
    ∃ v, scaleOf fmt rmode sgn f e edge = .ok v := by
  have hm : memRead fmt (-decimalScale e) = some (romEntry fmt (-decimalScale e)) := memRead_eq_some.2 ⟨hk, rfl⟩
  cases hp : policyOf rmode sgn f with
  | none => simp [policyOf_eq_none.1 hp] at hmode
  | some p => exact ⟨_, by simp only [scaleOf, hp, hm]; rfl⟩

/-! ## The lambda steps -/

/-- What the end of a lambda step leaves (R262, R263). -/
theorem finishLambda_frame (lambdas : List Int) (again : SeqState) (kappa : Int) (lidx : Nat) (settled : Int)
    (memo : Memo) (s : State) :
    let t := finishLambda lambdas again kappa lidx settled memo s
    t.bank = s.bank ∧ t.latched = s.latched ∧ t.cls = s.cls ∧ t.scale = s.scale ∧ t.env = s.env ∧ t.memo = memo ∧
      t.search.kappa = .holds kappa ∧ t.search.lidx = .holds (lidx + 1) ∧ t.search.sig = s.search.sig ∧
      (lidx + 1 = lambdas.length → t.seq = .cvSettle ∧ t.search.kq = .holds settled) ∧
      (lidx + 1 ≠ lambdas.length → t.seq = again ∧ t.search.kq = s.search.kq) := by
  by_cases h : lidx + 1 = lambdas.length <;> simp [finishLambda, h]

/-! ## The agents -/

/-- With an empty inbox the sequencer has its turn. -/
theorem systemStep_quiet {s : State} (h : s.env.inbox = []) : systemStep s = sequencerStep s := by
  simp [systemStep, h]

/-- Otherwise the first event of the inbox happens. -/
theorem systemStep_event {s : State} {e : Event} {rest : List Event} (h : s.env.inbox = e :: rest) :
    systemStep s = deliver e (popInbox s) := by
  simp [systemStep, h]

/-- The two ways a step of the system leads to a next state. -/
theorem systemStep_cases {s t : State} (h : systemStep s = .next t) :
    (s.env.inbox = [] ∧ sequencerStep s = .next t) ∨
      ∃ e rest, s.env.inbox = e :: rest ∧ deliver e (popInbox s) = .next t := by
  cases hi : s.env.inbox with
  | nil => exact .inl ⟨rfl, by rwa [systemStep_quiet hi] at h⟩
  | cons e rest => exact .inr ⟨e, rest, rfl, by rwa [systemStep_event hi] at h⟩

end Sys2Proof.Machine
end

