-- ==== Sys2Proof/Laws/PerInstr.lean ====
section
/-! SUPPORT. Statements made per instruction. The family `RowMatch`: the encoding of an instruction selects its own row of
the opcode table (R125 for the commands, R140 for the bus transactions). -/

namespace Sys2Proof.Laws

open Sys2Proof

/-- The word selects the row of the opcode table that the constructor stands for. -/
def selectsRow (i : Instr) (w : CodeWord) : Prop :=
  match i, w with
  | .convert _ _ _, .cmd w => w &&& commandMask = 0x01
  | .classify _ _ _, .cmd w => w &&& commandMask = 0x02
  | .policy _ _ _, .cmd w => w &&& commandMask = 0x03
  | .mulw _ _ _, .cmd w => w &&& commandMask = 0x10
  | .mulwhi _ _ _, .cmd w => w &&& commandMask = 0x11
  | .mul192 _ _ _, .cmd w => w &&& commandMask = 0x12
  | .flog10p2 _ _ _, .cmd w => w &&& commandMask = 0x20
  | .flog2p10 _ _ _, .cmd w => w &&& commandMask = 0x21
  | .cache _ _ _, .cmd w => w &&& commandMask = 0x30
  | .ivcmp _ _ _, .cmd w => w &&& commandMask = 0x40
  | .isprodint _ _ _, .cmd w => w &&& commandMask = 0x41
  | .busWrite _ _, .txn t => t.getLsbD 67 = true
  | .busRead _, .txn t => t.getLsbD 67 = false ∧ t.extractLsb' 0 64 = 0
  | _, _ => False

/-- The encoding of `i` selects the row of `i` (R125). -/
def RowMatch.Statement (i : Instr) : Prop := selectsRow i (encode i)

theorem RowMatch.convert (fmt : Fmt) (rmode : RMode) (cpol : CasePolicy) :
    RowMatch.Statement (.convert fmt rmode cpol) := by
  cases fmt <;> cases rmode <;> cases cpol <;> rfl

theorem RowMatch.classify (fmt : Fmt) (rmode : RMode) (cpol : CasePolicy) :
    RowMatch.Statement (.classify fmt rmode cpol) := by
  cases fmt <;> cases rmode <;> cases cpol <;> rfl

theorem RowMatch.policy (fmt : Fmt) (rmode : RMode) (cpol : CasePolicy) :
    RowMatch.Statement (.policy fmt rmode cpol) := by
  cases fmt <;> cases rmode <;> cases cpol <;> rfl

theorem RowMatch.mulw (fmt : Fmt) (rmode : RMode) (cpol : CasePolicy) :
    RowMatch.Statement (.mulw fmt rmode cpol) := by
  cases fmt <;> cases rmode <;> cases cpol <;> rfl

theorem RowMatch.mulwhi (fmt : Fmt) (rmode : RMode) (cpol : CasePolicy) :
    RowMatch.Statement (.mulwhi fmt rmode cpol) := by
  cases fmt <;> cases rmode <;> cases cpol <;> rfl

theorem RowMatch.mul192 (fmt : Fmt) (rmode : RMode) (cpol : CasePolicy) :
    RowMatch.Statement (.mul192 fmt rmode cpol) := by
  cases fmt <;> cases rmode <;> cases cpol <;> rfl

theorem RowMatch.flog10p2 (fmt : Fmt) (rmode : RMode) (cpol : CasePolicy) :
    RowMatch.Statement (.flog10p2 fmt rmode cpol) := by
  cases fmt <;> cases rmode <;> cases cpol <;> rfl

theorem RowMatch.flog2p10 (fmt : Fmt) (rmode : RMode) (cpol : CasePolicy) :
    RowMatch.Statement (.flog2p10 fmt rmode cpol) := by
  cases fmt <;> cases rmode <;> cases cpol <;> rfl

theorem RowMatch.cache (fmt : Fmt) (rmode : RMode) (cpol : CasePolicy) :
    RowMatch.Statement (.cache fmt rmode cpol) := by
  cases fmt <;> cases rmode <;> cases cpol <;> rfl

theorem RowMatch.ivcmp (fmt : Fmt) (rmode : RMode) (cpol : CasePolicy) :
    RowMatch.Statement (.ivcmp fmt rmode cpol) := by
  cases fmt <;> cases rmode <;> cases cpol <;> rfl

theorem RowMatch.isprodint (fmt : Fmt) (rmode : RMode) (cpol : CasePolicy) :
    RowMatch.Statement (.isprodint fmt rmode cpol) := by
  cases fmt <;> cases rmode <;> cases cpol <;> rfl

theorem RowMatch.busWrite (idx : HostReg) (data : Word) : RowMatch.Statement (.busWrite idx data) := by
  cases idx <;> simp only [RowMatch.Statement, selectsRow, encode, BitVec.getLsbD_append] <;> rfl

theorem RowMatch.busRead (idx : HostReg) : RowMatch.Statement (.busRead idx) := by
  cases idx <;> exact ⟨rfl, rfl⟩

end Sys2Proof.Laws
end

