-- ==== Sys2Proof/Laws/Search.lean ====
section
/-! SUPPORT. Small lemmas of the loop invariant of the search and of the measure of a running command. -/

namespace Sys2Proof.Machine

open Sys2Proof

theorem commandOfOp_eq_convert {op : BitVec 8} {fmt fmt' : Fmt} {rmode rmode' : RMode} {cpol cpol' : CasePolicy}
    (h : commandOfOp op fmt rmode cpol = some (.convert fmt' rmode' cpol')) :
    fmt = fmt' ∧ rmode = rmode' ∧ cpol = cpol' := by
  unfold commandOfOp at h
  split at h <;> simp_all

/-- A word that decodes to a CONVERT carries its fields. -/
theorem fields_of_decodeCmd_convert {w : Word} {fmt : Fmt} {rmode : RMode} {cpol : CasePolicy}
    (h : decodeCmd w = .ok (.convert fmt rmode cpol)) : fmtField w = fmt ∧ rmodeField w = rmode ∧ cpolField w = cpol := by
  unfold decodeCmd at h
  split at h
  · cases h
  · split at h
    · cases h
      exact commandOfOp_eq_convert ‹_›
    · cases h

@[simp] theorem Fmt.searchSteps_binary32 : Fmt.searchSteps .binary32 = 3 := rfl

@[simp] theorem Fmt.searchSteps_binary64 : Fmt.searchSteps .binary64 = 4 := rfl

theorem lambdasLeft_le (lambdas : List Int) (i : Nat) : lambdasLeft lambdas i ≤ lambdas.length := Nat.sub_le _ _

/-- A lambda step leaves one lambda fewer. -/
theorem lambdasLeft_succ {lambdas : List Int} {i : Nat} (h : i < lambdas.length) :
    lambdasLeft lambdas (i + 1) + 1 = lambdasLeft lambdas i := by
  unfold lambdasLeft
  omega

theorem commandSteps_convert {w : Word} {fmt : Fmt} {rmode : RMode} {cpol : CasePolicy}
    (h : decodeCmd w = .ok (.convert fmt rmode cpol)) : commandSteps w = Fmt.searchSteps fmt + 5 := by
  simp [commandSteps, h]

theorem commandSteps_other {w : Word} (h : ∀ fmt rmode cpol, decodeCmd w ≠ .ok (.convert fmt rmode cpol)) :
    commandSteps w = 1 := by
  unfold commandSteps
  split
  · exact absurd ‹_› (h _ _ _)
  · rfl

/-- The measure reads the sequencer's state, the accepted command and LIDX alone. -/
theorem stepsLeft_congr {s t : State} (hseq : t.seq = s.seq) (hcmd : t.bank.cmd = s.bank.cmd)
    (hlidx : t.search.lidx = s.search.lidx) : stepsLeft t = stepsLeft s := by
  simp only [stepsLeft, hseq, hcmd, hlidx]

/-- The loop invariant reads the sequencer's state, the accepted command, the scale registers and the search registers
alone. -/
theorem BracketInv.congr {s t : State} (h : BracketInv s) (hseq : t.seq = s.seq) (hcmd : t.bank.cmd = s.bank.cmd)
    (hscale : t.scale = s.scale) (hsearch : t.search = s.search) : BracketInv t := by
  intro hc hs z delta cl cr hz hd hl hr
  rw [hseq] at hc hs
  rw [hscale] at hz hd hl hr
  have b := h hc hs z delta cl cr hz hd hl hr
  rw [← hcmd] at b
  exact ⟨by rw [hseq, hsearch]; exact b.up, by rw [hseq, hsearch]; exact b.down, by rw [hseq, hsearch]; exact b.settled,
    by rw [hseq, hsearch]; exact b.tail⟩

/-- Outside a running conversion past CV_SCALE there is nothing to hold. -/
theorem BracketInv.of_not_converting {s : State} (h : s.seq.converting = false) : BracketInv s := by
  intro hc
  rw [h] at hc
  cases hc

/-! ## Written registers -/

@[simp] theorem Latch.isWritten_holds {α : Type} (v : α) : (Latch.holds v).isWritten = true := rfl

@[simp] theorem Latch.isWritten_unwritten {α : Type} (v : α) : (Latch.unwritten v).isWritten = false := rfl

@[simp] theorem Latch.agree_holds {α : Type} (v w : α) : (Latch.holds v).Agree (.holds w) ↔ v = w := Iff.rfl

@[simp] theorem Latch.agree_unwritten {α : Type} (v w : α) : (Latch.unwritten v).Agree (.unwritten w) := trivial

@[simp] theorem Latch.agree_refl {α : Type} (l : Latch α) : l.Agree l := by
  cases l <;> simp

/-- A register that agrees with a written one is written, with the same value. -/
theorem Latch.eq_holds_of_agree {α : Type} {l m : Latch α} {v : α} (h : l.Agree m) (hl : l = .holds v) : m = .holds v := by
  subst hl
  cases m with
  | unwritten w => exact h.elim
  | holds w => exact congrArg Latch.holds (h : v = w).symm

theorem SameWritten.refl (s : State) : SameWritten s s := by
  constructor <;> simp

end Sys2Proof.Machine
end

