-- ==== Sys2Proof/Tests/Slice0.lean ====
section
/-! SUPPORT. Tests. Words and expected values are those of the spec's test vectors (95_test_vectors.md, the section named at
each group), written out by hand; and, at the end, witnesses: for each statement with hypotheses a concrete state and operands
that meet them together. -/

namespace Sys2Proof.Tests

open Sys2Proof Sys2Proof.Machine

/-! ## Helpers -/

/-- Just after reset, with these operands written. -/
def withOperands (a b c : Word) : State :=
  { State.reset with bank := { State.reset.bank with opa := a, opb := b, opc := c } }

/-- The command word `w` has just been accepted with these operands. -/
def demo (w a b c : Word) : State := accept w (withOperands a b c)

/-- RES0, RES1, RES2 and STATUS after a step. -/
def report : Result → Option (List Word)
  | .next t => some [t.bank.res0, t.bank.res1, t.bank.res2, t.bank.status.word]
  | .fault _ => none
  | .refused _ => none

/-- STATUS after a step. -/
def statusAfter : Result → Option Word
  | .next t => some t.bank.status.word
  | .fault _ => none
  | .refused _ => none

/-- What the last read returned, after a step. -/
def respAfter : Result → Option Word
  | .next t => t.env.resp
  | .fault _ => none
  | .refused _ => none

/-- SEQ after a step. -/
def seqAfter : Result → Option SeqState
  | .next t => some t.seq
  | .fault _ => none
  | .refused _ => none

/-! ## Well-formedness: each check refuses an ill-formed term (R123 case 1) -/

theorem test_wellFormed_refuses_convert : (Instr.convert .binary64 .reserved5 .assertFinite).wellFormed = false := by decide

theorem test_wellFormed_refuses_policy : (Instr.policy .binary32 .reserved6 .ignore).wellFormed = false := by decide

theorem test_wellFormed_refuses_ivcmp : (Instr.ivcmp .binary64 .reserved7 .assertFinite).wellFormed = false := by decide

theorem test_wellFormed_admits_unused_mode : (Instr.classify .binary32 .reserved5 .ignore).wellFormed = true ∧
    (Instr.convert .binary64 .fast .ignore).wellFormed = true := by decide

/-! ## Decoding: words of section 2 of the test vectors, one for every constructor -/

theorem test_decode_convert : (decodeCmd 0x101).toOption = some (.convert .binary64 .rne .assertFinite) ∧
    (decodeCmd 0x1101).toOption = some (.convert .binary64 .rne .ignore) ∧
    (decodeCmd 0x201).toOption = some (.convert .binary32 .rtz .assertFinite) := by decide

theorem test_decode_reserved_mode : (decodeCmd 0xB01).toOption = some (.convert .binary64 .reserved5 .assertFinite) := by
  decide

theorem test_decode_classify : (decodeCmd 0x102).toOption = some (.classify .binary64 .rne .assertFinite) := by decide

theorem test_decode_policy : (decodeCmd 0x603).toOption = some (.policy .binary32 .rup .assertFinite) ∧
    (decodeCmd 0x903).toOption = some (.policy .binary64 .fast .assertFinite) := by decide

theorem test_decode_mulw : (decodeCmd 0x10).toOption = some (.mulw .binary32 .rne .assertFinite) ∧
    (decodeCmd 0x1110).toOption = some (.mulw .binary64 .rne .ignore) := by decide

theorem test_decode_mulwhi : (decodeCmd 0x11).toOption = some (.mulwhi .binary32 .rne .assertFinite) := by decide

theorem test_decode_mul192 : (decodeCmd 0x12).toOption = some (.mul192 .binary32 .rne .assertFinite) := by decide

theorem test_decode_flog10p2 : (decodeCmd 0x20).toOption = some (.flog10p2 .binary32 .rne .assertFinite) := by decide

theorem test_decode_flog2p10 : (decodeCmd 0x21).toOption = some (.flog2p10 .binary32 .rne .assertFinite) := by decide

theorem test_decode_cache : (decodeCmd 0x130).toOption = some (.cache .binary64 .rne .assertFinite) := by decide

theorem test_decode_ivcmp : (decodeCmd 0x540).toOption = some (.ivcmp .binary64 .rdn .assertFinite) := by decide

theorem test_decode_isprodint : (decodeCmd 0x41).toOption = some (.isprodint .binary32 .rne .assertFinite) := by decide

theorem test_decode_busWrite : (decodeTxn 0x93FF0000000000000).toOption = some (.busWrite .opa 0x3FF0000000000000) ∧
    (decodeTxn 0xC0000000000000005).toOption = some (.busWrite .res0 5) ∧
    (decodeTxn 0x80000000000000101).toOption = some (.busWrite .cmd 0x101) := by decide

theorem test_decode_busRead : (decodeTxn 0x70000000000000000).toOption = some (.busRead .status) ∧
    (decodeTxn 0x00000000000000000).toOption = some (.busRead .cmd) := by decide

theorem test_decode_refuses : (decodeCmd 0x2010).toOption = none ∧ (decodeCmd 0x8000000000000101).toOption = none ∧
    (decodeCmd 0).toOption = none ∧ (decodeCmd 0x04).toOption = none ∧ (decodeCmd 0x13).toOption = none ∧
    (decodeCmd 0x22).toOption = none ∧ (decodeCmd 0x31).toOption = none ∧ (decodeCmd 0x42).toOption = none ∧
    (decodeCmd 0xFF).toOption = none ∧ (decodeTxn 0x70000000000000001).toOption = none := by decide

theorem test_decodeTableWord : decodeTableWord 64 0x101 = some (.convert .binary64 .rne .assertFinite) ∧
    decodeTableWord 72 0x93FF0000000000000 = some (.busWrite .opa 0x3FF0000000000000) := by decide

/-! ## One step of each instruction (sections 3 to 12 of the test vectors) -/

theorem test_mulw_carry : report (step (demo 0x10 0x8000000000000000 2 0)) = some [0, 1, 0, 0x2] := by decide

theorem test_mulw_largest : report (step (demo 0x10 0xFFFFFFFFFFFFFFFF 0xFFFFFFFFFFFFFFFF 9)) =
    some [1, 0xFFFFFFFFFFFFFFFE, 0, 0x2] := by decide

theorem test_mulwhi : report (step (demo 0x11 0x123456789ABCDEF0 0x0FEDCBA987654321 0)) =
    some [0x0121FA00AD77D742, 0, 0, 0x2] := by decide

theorem test_mul192_word_order : report (step (demo 0x12 1 0x1234 0xABCD)) = some [0xABCD, 0, 0, 0x2] := by decide

theorem test_mul192_truncates : report (step (demo 0x12 3 0xFFFFFFFFFFFFFFFF 0)) = some [2, 0, 0, 0x2] := by decide

theorem test_flog10p2_negative : report (step (demo 0x20 0xFFFFFFFFFFFFFFCB 0 0)) =
    some [0xFFFFFFFFFFFFFFF0, 0, 0, 0x2] := by decide

theorem test_flog10p2_range : report (step (demo 0x20 0x8000000000000000 0 0)) = some [0, 0, 0, 0x2044] := by decide

theorem test_flog2p10_negative : report (step (demo 0x21 0xFFFFFFFFFFFFFFF6 0 0)) =
    some [0xFFFFFFFFFFFFFFDE, 0, 0, 0x2] := by decide

theorem test_flog2p10_range : report (step (demo 0x21 65537 0 0)) = some [0, 0, 0, 0x2144] := by decide

theorem test_cache_truncates : report (step (demo 0x130 0xFFFFFFFFFFFFFFF0 0 0)) =
      some [0x4C2EBE687989A9B3, 0xE69594BEC44DE15B, 0, 0x2] ∧
    report (step (demo 0x30 0xFFFFFFFFFFFFFFFF 0 0)) = some [0xCCCCCCCCCCCCCCCC, 0, 0, 0x2] := by decide +kernel

theorem test_isprodint_true : report (step (demo 0x41 0x002A5A058FC295ED 23 23)) = some [1, 0, 0, 0x2] := by decide

theorem test_isprodint_false : report (step (demo 0x41 0x002A5A058FC295ED 22 23)) = some [0, 0, 0, 0x2] := by decide

theorem test_policy_negative : report (step (demo 0x503 0xBFF0000000000001 0 0)) = some [1, 0, 0, 0x2] := by decide

theorem test_policy_reserved : report (step (demo 0xB03 0x3FF0000000000000 0 0)) = some [0, 0, 0, 0x324] := by decide

theorem test_classify_negative : report (step (demo 0x2 0x80800000 0 0)) =
    some [0x800000, 0xFFFFFFFFFFFFFF6B, 0x10009, 0x2] := by decide

theorem test_classify_nan : report (step (demo 0x102 0xFFF8000000000000 0 0)) =
    some [0x0018000000000000, 0x3CC, 0x7FF0011, 0x2] := by decide

theorem test_ivcmp_ties : report (step (demo 0x40 0x65C8E71B 1 0)) = some [11859205, 15, 0x29402, 0x2] ∧
    report (step (demo 0x340 0x4350000000000002 1 0)) = some [1801439850948199, 0, 0x74341, 0x2] := by decide +kernel

theorem test_convert_not_finite : report (step (demo 0x101 0x8000000000000000 0 0)) = some [0, 0, 0, 0x134] := by
  decide

theorem test_convert_classifies : seqAfter (step (demo 0x101 0x3FF0000000000000 0 0)) = some .cvScale ∧
    statusAfter (step (demo 0x101 0x3FF0000000000000 0 0)) = some 1 := by decide

theorem test_busWrite_overrun : statusAfter (execBusWrite .cmd 0x10 (faultEntry .illegalCommand 0x2010 (demo 0x2010 5 0 0))) =
    some 0x101C := by decide

theorem test_busWrite_read_only : statusAfter (execBusWrite .status 0xFFFFFFFFFFFFFFFF State.reset) = some 0 := by
  decide

theorem test_busRead_status : respAfter (execBusRead .status (demo 0x101 0 0 0)) = some 1 := by decide

theorem test_illegal_priority : statusAfter (step (demo 0x2B01 0 0 0)) = some 0x114 := by decide

/-! ## The steps of the digit search: the settling and tail steps of traces T5 and T1 (section 10.2) -/

/-- Binary64 `0x4350000000000001` under RNE, as trace T5 has it after its steps 1 and 2. -/
def tailScale : ScaleValues := ⟨false, false, 0, 3, romEntry .binary64 0, 18014398509481990, 4⟩

/-- The scale values of trace T5 are those of the scale step. -/
theorem witness_tailScale : scaleOf .binary64 .rne false 0x10000000000001 2 false = .ok tailScale := by decide +kernel

/-- The classification of that pattern (trace T5, step 1). -/
def tailClass : Classified := ⟨false, .normal, 0x435, 0x10000000000001, 2, false⟩

/-- A conversion with these values, at a step of the search. -/
def searching (w b : Word) (c : Classified) (v : ScaleValues) (seq : SeqState) (kappa : Int) (lidx : Nat) (kq : Int) :
    State :=
  { writeScale v (writeClass c (demo w b 0 0)) with
    search := ⟨.holds kappa, .holds lidx, .holds kq, .unwritten 0⟩
    seq := seq }

theorem test_cvScale : sequencerStep { writeClass tailClass (demo 0x101 0x4350000000000001 0 0) with seq := .cvScale } =
    .next { writeScale tailScale (writeClass tailClass (demo 0x101 0x4350000000000001 0 0)) with
      search := ⟨.holds 7, .holds 0, .unwritten 0, .unwritten 0⟩
      seq := .cvInit } := by
  simp only [sequencerStep, cvScale, Latch.val, writeClass, classRegs, demo, accept, tailClass]
  rw [show fmtField 0x101 = .binary64 by decide, show rmodeField 0x101 = .rne by decide,
    show (0x10000000000001 : BitVec 53).toNat = 0x10000000000001 by decide, witness_tailScale]
  rfl

theorem test_cvSettle_cvTail :
    seqAfter (sequencerStep (searching 0x101 0x4350000000000001 tailClass tailScale .cvSettle 2 3 1)) = some .cvTail ∧
      report (sequencerStep (searching 0x101 0x4350000000000001 tailClass tailScale .cvTail 2 3 1)) =
        some [18014398509481989, 0, 0, 0x2] := by decide +kernel

theorem test_cvDown_last : seqAfter (sequencerStep (searching 0x101 0x4350000000000001 tailClass tailScale .cvDown 3 2 9)) =
    some .cvSettle := by decide

/-! ## Witnesses for the statements' hypotheses -/

/-- MULW of 5 and 9, accepted. -/
def mulwDemo : State := demo 0x10 5 9 2

/-- CONVERT of binary64 1.0, accepted (program P1). -/
def convertDemo : State := demo 0x101 0x3FF0000000000000 0 0

/-- A faulted block: the word 0x2010 has a reserved bit set (program P4). -/
def faultedDemo : State := faultEntry .illegalCommand 0x2010 (demo 0x2010 5 0 0)

/-- `s` with these events still to come. -/
def withInbox (es : List Event) (s : State) : State := { s with env := { s.env with inbox := es } }

/-- The transaction `wr OPA, 0x3FF0000000000000` (section 2 of the test vectors). -/
def writeOpa : BusWord := 0x93FF0000000000000

theorem witness_inv_demo (w a b c : Word) : Inv (demo w a b c) where
  status := ⟨rfl, rfl, fun h => (by cases h), fun _ => ⟨rfl, rfl⟩, fun h => (by cases h)⟩
  latch := ⟨fun _ => rfl, fun _ => ⟨a, b, c, rfl, rfl, rfl⟩⟩
  convert := fun h => (by cases h)

theorem witness_inv_faulted : Inv faultedDemo where
  status := ⟨rfl, rfl, fun h => (by cases h), fun h => (by cases h), fun _ => ⟨by decide, by decide⟩⟩
  latch := ⟨fun _ => rfl, fun _ => ⟨5, 0, 0, rfl, rfl, rfl⟩⟩
  convert := fun h => (by cases h)

theorem witness_tailClass : classifyPattern .binary64 0x4350000000000001 = tailClass := by decide

/-- The conversion of trace T5, at a step of the search with registers in range. -/
theorem witness_convertInv (seq : SeqState) (kappa kq : Int) (lidx : Nat)
    (h : SearchInv .binary64 (searching 0x101 0x4350000000000001 tailClass tailScale seq kappa lidx kq)) :
    ConvertInv .binary64 .rne .assertFinite 0x4350000000000001
      (searching 0x101 0x4350000000000001 tailClass tailScale seq kappa lidx kq) where
  command := by show decodeCmd 0x101 = _; decide
  mode := rfl
  operand := rfl
  fits := rfl
  finite := by rw [witness_tailClass]; rfl
  classified := by rw [witness_tailClass]; rfl
  scaled := fun _ => ⟨tailScale, by rw [witness_tailClass]; exact witness_tailScale, rfl, .inl rfl⟩
  search := h

/-- The first comparison of trace T5 comes next. -/
def initDemo : State := searching 0x101 0x4350000000000001 tailClass tailScale .cvInit 7 0 0

theorem witness_inv_initDemo : Inv initDemo where
  status := ⟨rfl, rfl, fun h => (by cases h), fun _ => ⟨rfl, rfl⟩, fun h => (by cases h)⟩
  latch := ⟨fun _ => rfl, fun _ => ⟨_, _, _, rfl, rfl, rfl⟩⟩
  convert := fun _ => ⟨_, _, _, _, witness_convertInv _ _ _ _ ⟨fun _ => ⟨rfl, rfl⟩, fun h => (by cases h),
    fun h => (by cases h), fun h => (by rcases h with h | h <;> cases h)⟩⟩

theorem witness_SearchSettlesOnGreatestKappa : Inv initDemo ∧
    ConvertInv .binary64 .rne .assertFinite 0x4350000000000001 initDemo ∧ initDemo.env.inbox = [] ∧
    initDemo.seq = .cvInit ∧ initDemo.scale = scaleRegs tailScale :=
  ⟨witness_inv_initDemo, witness_convertInv _ _ _ _ ⟨fun _ => ⟨rfl, rfl⟩, fun h => (by cases h), fun h => (by cases h),
    fun h => (by rcases h with h | h <;> cases h)⟩, rfl, rfl, rfl⟩

theorem witness_EncodeDecodeRoundTrip : decode (.cmd 0x701) = .ok (.convert .binary64 .rup .assertFinite) ∧
    decode (.txn 0x70000000000000000) = .ok (.busRead .status) := by decide

/-- For DecodesExactlyTheTableRows: the words 0xF40 (IVCMP, RMODE = 7, the last value) and 0x1 (CONVERT, RMODE = 0), and the first
and the last register index. -/
theorem witness_DecodesExactlyTheTableRows : Fmt.binary64 = (if (0xF40 : Word).getLsbD 8 then .binary64 else .binary32) ∧
    ((0xF40 : Word).extractLsb' 9 3).toNat = 7 ∧ (0xF40 : Word) &&& 0xFFFFFFFFFFFFE0FF = 0x40 ∧
    ((0x1 : Word).extractLsb' 9 3).toNat = 0 ∧ (0x1 : Word) &&& 0xFFFFFFFFFFFFE0FF = 0x1 ∧
    ((0x70000000000000000 : BusWord).extractLsb' 64 3).toNat = 7 ∧ ((0x80000000000000101 : BusWord).extractLsb' 64 3).toNat = 0 ∧
    (0x70000000000000000 : BusWord).getLsbD 67 = false ∧ (0x80000000000000101 : BusWord).getLsbD 67 = true := by decide

theorem witness_StepRunsLatchedCommand : SequencerNext mulwDemo ∧ mulwDemo.seq = .exec ∧
    SequencerNext (withInbox [.sequencer, .reset] mulwDemo) ∧ mulwDemo.latched.lcmd.val = 0x10 ∧
    decodeCmd 0x10 = .ok (.mulw .binary32 .rne .assertFinite) :=
  ⟨.inl rfl, rfl, .inr ⟨_, rfl⟩, rfl, by decide⟩

theorem witness_StepRunsHostTransaction :
    (withInbox [.txn writeOpa, .sequencer] mulwDemo).env.inbox = .txn writeOpa :: [.sequencer] ∧
      decodeTxn writeOpa = .ok (.busWrite .opa 0x3FF0000000000000) := ⟨rfl, by decide⟩

theorem witness_PlacedCommandRunsNext :
    decodeTableWord 64 (0x101 : Word).toNat = some (.convert .binary64 .rne .assertFinite) := by decide

/-- An undefined OP, a set bit 13 and a set bit 63 (section 11 of the test vectors). -/
theorem witness_IllegalWordFaults : SequencerNext (demo 0x04 0 0 0) ∧ (demo 0x04 0 0 0).seq = .exec ∧
    (demo 0x04 0 0 0).latched.lcmd.val = 0x04 ∧
    ((0x04 : Word).extractLsb' 0 8).toNat ∉ [0x01, 0x02, 0x03, 0x10, 0x11, 0x12, 0x20, 0x21, 0x30, 0x40, 0x41] ∧
    (demo 0x2010 0 0 0).latched.lcmd.val = 0x2010 ∧ (0x2010 : Word).extractLsb' 13 51 ≠ 0 ∧
    (0x8000000000000101 : Word).extractLsb' 13 51 ≠ 0 :=
  ⟨.inl rfl, rfl, rfl, by decide, rfl, by decide, by decide⟩

theorem witness_ResetEventRestoresBlock : (withInbox [.reset, .sequencer] faultedDemo).env.inbox = .reset :: [.sequencer] :=
  rfl

theorem witness_StepKeepsInvariant : Inv mulwDemo ∧ step mulwDemo = .next (complete 45 0 0 mulwDemo) :=
  ⟨witness_inv_demo _ _ _ _, by rfl⟩

/-- With a state that differs in what an unwritten register holds. -/
theorem witness_StepGoesOnWithoutUnwrittenReads : Inv mulwDemo ∧ InboxOk mulwDemo ∧
    InboxOk (withInbox [.sequencer, .txn writeOpa, .reset] faultedDemo) ∧
    SameWritten mulwDemo { mulwDemo with search := { mulwDemo.search with sig := .unwritten 7 } } := by
  refine ⟨witness_inv_demo _ _ _ _, fun t h => (by cases h), fun t h => ?_, by constructor <;> trivial⟩
  have : t = writeOpa := by simpa [withInbox] using h
  exact ⟨_, this ▸ witness_StepRunsHostTransaction.2⟩

/-- The measure at its greatest value, at that of another command, and at a faulted block. -/
theorem witness_SequencerStepBound : Inv convertDemo ∧ convertDemo.seq.busy = true ∧ stepsLeft convertDemo = 9 ∧
    Inv mulwDemo ∧ stepsLeft mulwDemo = 1 ∧ Inv faultedDemo ∧ stepsLeft faultedDemo = 0 ∧
    hostTransaction writeOpa convertDemo = .next (hostWrite .opa 0x3FF0000000000000 convertDemo) :=
  ⟨witness_inv_demo _ _ _ _, rfl, by decide, witness_inv_demo _ _ _ _, by decide, witness_inv_faulted, rfl, by rfl⟩

theorem witness_OtherCommandsTakeOneStep : Inv mulwDemo ∧ SequencerNext mulwDemo ∧ mulwDemo.seq = .exec ∧
    mulwDemo.latched.lcmd.val = 0x10 ∧ ∀ fmt rmode cpol, decodeCmd 0x10 ≠ .ok (.convert fmt rmode cpol) :=
  ⟨witness_inv_demo _ _ _ _, .inl rfl, rfl, rfl, fun fmt rmode cpol h => by
    rw [witness_StepRunsLatchedCommand.2.2.2.2] at h; cases h⟩

theorem witness_OperandWriteChangesOnlyThatRegister :
    ∀ r ∈ [HostReg.opa, .opb, .opc], r = .opa ∨ r = .opb ∨ r = .opc := by decide

theorem witness_CommandAccepted : State.reset.seq = .idle := rfl

theorem witness_CommandOverrun : mulwDemo.seq ≠ .idle ∧ faultedDemo.seq ≠ .idle := by decide

/-- Also for HostAccessCommutesWithSequencer, with the step that ends the command. -/
theorem witness_SequencerKeepsCommandAndOperands : sequencerStep mulwDemo = .next (complete 45 0 0 mulwDemo) := by rfl

theorem witness_OnlyCompletionWritesResults : step mulwDemo = .next (complete 45 0 0 mulwDemo) ∧
    (∀ rest, mulwDemo.env.inbox ≠ .reset :: rest) ∧ (complete 45 0 0 mulwDemo).bank.res0 ≠ mulwDemo.bank.res0 :=
  ⟨witness_StepKeepsInvariant.2, fun _ h => (by cases h), by decide⟩

theorem witness_FaultedUntilReset : faultedDemo.seq = .faulted ∧
    step (withInbox [.txn 0x80000000000000010] faultedDemo) = .next (overrun faultedDemo) ∧
    ∀ rest, (withInbox [.txn 0x80000000000000010] faultedDemo).env.inbox ≠ .reset :: rest :=
  ⟨rfl, by rfl, fun _ h => (by cases h)⟩

theorem witness_FaultsArePrecise : (demo 0x2010 5 0 0).seq ≠ .faulted ∧
    sequencerStep (demo 0x2010 5 0 0) = .next faultedDemo ∧ faultedDemo.seq = .faulted := ⟨by decide, by rfl, rfl⟩

/-- A step after which the command still runs, and a faulted block. -/
theorem witness_HostAccessCommutesWithSequencer : sequencerStep convertDemo =
      .next { writeClass (classifyPattern .binary64 0x3FF0000000000000) convertDemo with seq := .cvScale } ∧
    convertDemo.seq ≠ .idle ∧ sequencerStep faultedDemo = .next faultedDemo ∧ faultedDemo.seq ≠ .idle :=
  ⟨by rfl, by decide, rfl, by decide⟩

theorem witness_BusReadReturnsRegister : ∀ r ∈ [HostReg.cmd, .res0, .status],
    (r, mulwDemo.bank.get r) ∈ [(HostReg.cmd, mulwDemo.bank.cmd), (.opa, mulwDemo.bank.opa), (.opb, mulwDemo.bank.opb),
      (.opc, mulwDemo.bank.opc), (.res0, mulwDemo.bank.res0), (.res1, mulwDemo.bank.res1), (.res2, mulwDemo.bank.res2),
      (.status, mulwDemo.bank.status.word)] := by decide

theorem witness_HostCannotDisturbRunningCommand : mulwDemo.seq.busy = true ∧
    hostTransaction writeOpa mulwDemo = .next (hostWrite .opa 0x3FF0000000000000 mulwDemo) ∧
    hostTransaction 0x80000000000000010 mulwDemo = .next (overrun mulwDemo) := ⟨rfl, by rfl, by rfl⟩

/-- For MulwExactProduct, MulwhiUpperHalf, Mul192TopBits and IsprodintDecidesInteger. -/
theorem witness_latches : mulwDemo.latched.lcmd.val = 0x10 ∧ mulwDemo.latched.la.val = 5 ∧
    mulwDemo.latched.lb.val = 9 ∧ mulwDemo.latched.lc.val = 2 := ⟨rfl, rfl, rfl, rfl⟩

/-- For Flog10p2ExactFloor, Flog2p10ExactFloor and EstimatorRangeFault: the ends of the domain, and the values just outside
it (section 4 of the test vectors). -/
theorem witness_estimator_domain : (0x10000 : Word).toInt.natAbs ≤ Config.elogRange ∧
    (0xFFFFFFFFFFFF0000 : Word).toInt.natAbs ≤ Config.elogRange ∧ Config.elogRange < (0x10001 : Word).toInt.natAbs ∧
    Config.elogRange < (0xFFFFFFFFFFFEFFFF : Word).toInt.natAbs ∧
    Config.elogRange < (0x8000000000000000 : Word).toInt.natAbs := by decide

/-- For CacheEntryTruncated and CacheRangeFault: the ends of the ROM's index ranges, and the indices just outside (section 5
of the test vectors). -/
theorem witness_cache_range : (0xFFFFFFFFFFFFFFE1 : Word).toInt = Fmt.minK .binary32 ∧
    (0x2D : Word).toInt = Fmt.maxK .binary32 ∧ (0xFFFFFFFFFFFFFEDC : Word).toInt = Fmt.minK .binary64 ∧
    (0x144 : Word).toInt = Fmt.maxK .binary64 ∧ (0xFFFFFFFFFFFFFFE0 : Word).toInt < Fmt.minK .binary32 ∧
    Fmt.maxK .binary32 < (0x2E : Word).toInt ∧ (0xFFFFFFFFFFFFFEDB : Word).toInt < Fmt.minK .binary64 ∧
    Fmt.maxK .binary64 < (0x145 : Word).toInt := by decide

theorem witness_ConversionIndicesInRange :
    ∀ fmt ∈ [Fmt.binary32, .binary64], fmt.eMin ≤ fmt.eMaxF := by decide

theorem witness_CompareIsExact : (3 / 4 : ℚ) ≤ 3 / 4 ∧ memoConsistent (22 / 10) (21 / 10) .notCompared ∧
    memoConsistent (22 / 10) (21 / 10) .z2Larger := by
  refine ⟨le_refl _, .inl rfl, .inr ?_⟩
  norm_num [freshVerdict, isZ2SameAsDelta2, Int.fract]

/-- Equality with a contained left edge, as trace T6 has it. -/
theorem witness_AcceptanceMonotone : exactAccept 18014398509481994 4 true 1 ∧ (-1 : Int) ≤ 1 := by
  norm_num [exactAccept, remainder, candidate]

theorem witness_KappaRangeSuffices : patternFits .binary64 1 = true ∧
    (classifyPattern .binary64 1).cls.finiteNonzero = true ∧
    (classifyPattern .binary64 0x7FEFFFFFFFFFFFFF).cls.finiteNonzero = true ∧ patternFits .binary32 0x7F7FFFFF = true ∧
    (classifyPattern .binary32 0x7F7FFFFF).cls.finiteNonzero = true ∧ Fmt.kMax .binary32 < 9 ∧
    Fmt.kMax .binary64 < 17 := by decide

/-- `K0` equal to MK_MAX, in both formats: `2f + 1` is `5^10` and `5^23`. -/
theorem witness_UpperBoundaryIntegerTest : 4882812 < 2 ^ Fmt.extPrecision .binary32 ∧ 0 ≤ decimalScale 34 ∧
    zInt 4882812 34 (decimalScale 34) = true ∧ 5960464477539062 < 2 ^ Fmt.extPrecision .binary64 ∧ 0 ≤ decimalScale 77 ∧
    zInt 5960464477539062 77 (decimalScale 77) = true := by decide

/-- For IvcmpReportsComparison and IvcmpRangeFault: both ends of the kappa range, and just outside it (sections 9.1 and 9.3
of the test vectors). -/
theorem witness_ivcmp_range : (classifyPattern .binary64 0x3FF0000000000000).cls.finiteNonzero = true ∧
    (0xFFFFFFFFFFFFFFFF : Word).toInt = kMin ∧ (0x10 : Word).toInt = Fmt.kMax .binary64 ∧
    (8 : Word).toInt = Fmt.kMax .binary32 ∧ (0xFFFFFFFFFFFFFFFE : Word).toInt < kMin ∧
    Fmt.kMax .binary64 < (0x11 : Word).toInt ∧ Fmt.kMax .binary32 < (9 : Word).toInt := by decide

/-- Also for ConvertClassifiesThenScales: the same operand. -/
theorem witness_IvcmpReportsComparison : (demo 0x140 0x3FF0000000000000 16 0).latched.la.val = 0x3FF0000000000000 ∧
    (demo 0x140 0x3FF0000000000000 16 0).latched.lb.val = 16 ∧ RMode.isReserved .rne = false ∧
    patternFits .binary64 0x3FF0000000000000 = true := ⟨rfl, rfl, rfl, rfl⟩

theorem witness_PolicyFlags : (demo 0x503 0xBFF0000000000001 0 0).latched.la.val = 0xBFF0000000000001 ∧
    RMode.isReserved .rdn = false ∧ patternFits .binary64 0xBFF0000000000001 = true := ⟨rfl, rfl, rfl⟩

theorem witness_ClassifyReport : (demo 0x2 0x3F800000 0 0).latched.la.val = 0x3F800000 ∧
    patternFits .binary32 0x3F800000 = true ∧ ((0x3F800000 : Word).extractLsb' 0 (Fmt.precision .binary32)).toNat = 0 ∧
    ((0x3F800000 : Word).extractLsb' (Fmt.precision .binary32) (Fmt.expWidth .binary32)).toNat = 127 := by
  refine ⟨rfl, ?_, ?_, ?_⟩ <;> decide

/-- One pattern for each clause: normal, subnormal, edge. -/
theorem witness_ClassificationBounds : (classifyPattern .binary64 0x7FEFFFFFFFFFFFFF).cls = .normal ∧
    (classifyPattern .binary64 0x000FFFFFFFFFFFFF).cls = .subnormal ∧
    (classifyPattern .binary32 0x01000000).edge = true ∧ patternFits .binary32 0x01000000 = true := by decide

theorem witness_BadOperandFaults : (demo 0xB01 0 0 0).latched.lcmd.val = 0xB01 ∧
    (demo 0xB01 0 0 0).latched.la.val = 0 ∧ (demo 0xB01 0 0 0).latched.lb.val = 0 ∧
    RMode.isReserved .reserved5 = true ∧ 2 ^ 32 ≤ (0x100000000 : Word).toNat := by
  refine ⟨rfl, rfl, rfl, ?_, ?_⟩ <;> decide

/-- For NotFiniteFaults and IgnoredPatternCompletes: zero, infinity and NaN. -/
theorem witness_not_finite : (classifyPattern .binary64 0).cls.finiteNonzero = false ∧
    (classifyPattern .binary64 0x7FF0000000000000).cls.finiteNonzero = false ∧
    (classifyPattern .binary64 0xFFF8000000000000).cls.finiteNonzero = false ∧ patternFits .binary32 0x7F800000 = true ∧
    (classifyPattern .binary32 0x7F800000).cls.finiteNonzero = false := by decide

theorem witness_convertReady (w : Word) (cpol : CasePolicy) (hw : decodeCmd w = .ok (.convert .binary64 .rne cpol))
    (b' c' : Word) : ConvertReady .binary64 .rne cpol 0x3FF0000000000000 (demo w 0x3FF0000000000000 b' c') where
  quiet := rfl
  seq := rfl
  command := hw
  mode := rfl
  operand := rfl
  fits := rfl
  finite := by decide

theorem witness_ConvertMeetsResultLaw :
    ConvertReady .binary64 .rne .assertFinite 0x3FF0000000000000 convertDemo :=
  witness_convertReady 0x101 .assertFinite (by decide) 0 0

theorem witness_SearchKeepsBracket : Inv initDemo ∧ BracketInv initDemo ∧
    ∃ t, step initDemo = .next t ∧ t.seq ≠ .cvInit :=
  ⟨witness_inv_initDemo, fun _ _ _ _ _ _ _ _ _ _ => ⟨fun h => (by cases h), fun h => (by cases h),
    fun h => (by rcases h with h | h <;> cases h), fun h => (by cases h)⟩, _, rfl, fun h => by
      change (if _ then SeqState.cvUp else SeqState.cvDown) = SeqState.cvInit at h
      split at h <;> cases h⟩

/-- The values of trace T1 after its step 2: binary64 1.0 under RNE. -/
def oneScale : ScaleValues :=
  ⟨true, true, -16, 2, romEntry .binary64 16, 9007199254740993 / 2 ^ 53 * 10 ^ 16, 3 / 2 ^ 54 * 10 ^ 16⟩

/-- The classification of 1.0 (trace T1, step 1). -/
def oneClass : Classified := ⟨false, .normal, 0x3FF, 0x10000000000000, -52, true⟩

/-- Trace T1 before its step 8: the search has settled on 16. -/
def settledDemo : State := searching 0x101 0x3FF0000000000000 oneClass oneScale .cvSettle 16 4 16

theorem witness_oneScale : scaleOf .binary64 .rne false 0x10000000000000 (-52) true = .ok oneScale := by decide +kernel

theorem witness_oneClass : classifyPattern .binary64 0x3FF0000000000000 = oneClass := by decide

theorem witness_convertInv_settled (cpol : CasePolicy) (w : Word) (hw : decodeCmd w = .ok (.convert .binary64 .rne cpol)) :
    ConvertInv .binary64 .rne cpol 0x3FF0000000000000
      (searching w 0x3FF0000000000000 oneClass oneScale .cvSettle 16 4 16) where
  command := hw
  mode := rfl
  operand := rfl
  fits := rfl
  finite := by rw [witness_oneClass]; rfl
  classified := by rw [witness_oneClass]; rfl
  scaled := fun _ => ⟨oneScale, by rw [witness_oneClass]; exact witness_oneScale, rfl, .inl rfl⟩
  search := ⟨fun h => (by cases h), fun h => (by cases h), fun h => (by cases h), fun _ => ⟨16, rfl, by decide, by decide⟩⟩

theorem witness_inv_settled (cpol : CasePolicy) (w : Word) (hw : decodeCmd w = .ok (.convert .binary64 .rne cpol)) :
    Inv (searching w 0x3FF0000000000000 oneClass oneScale .cvSettle 16 4 16) where
  status := ⟨rfl, rfl, fun h => (by cases h), fun _ => ⟨rfl, rfl⟩, fun h => (by cases h)⟩
  latch := ⟨fun _ => rfl, fun _ => ⟨_, _, _, rfl, rfl, rfl⟩⟩
  convert := fun _ => ⟨_, _, _, _, witness_convertInv_settled cpol w hw⟩

/-- 16 is accepted, and above it the candidate is 0. -/
theorem witness_bracket_settled (w : Word) :
    BracketInv (searching w 0x3FF0000000000000 oneClass oneScale .cvSettle 16 4 16) := by
  rintro - - z delta cl cr hz hd hl -
  obtain rfl : oneScale.z = z := by injection hz
  obtain rfl : oneScale.delta = delta := by injection hd
  obtain rfl : oneScale.cl = cl := by injection hl
  refine ⟨fun h => (by cases h), fun h => (by cases h), fun _ kq h => ?_, fun h => (by cases h)⟩
  obtain rfl : (16 : Int) = kq := by injection h
  refine ⟨by norm_num [exactAccept, remainder, candidate, oneScale], fun kappa hk h => ?_⟩
  have h1 : (1 : ℚ) ≤ oneScale.z / 10 ^ kappa := by
    have := (Int.le_floor (z := 1)).mp h.1
    exact_mod_cast this
  have h2 : (10 : ℚ) ^ (17 : Int) ≤ 10 ^ kappa := zpow_le_zpow_right₀ (by norm_num) (by omega)
  rw [le_div_iff₀ (by positivity)] at h1
  norm_num [oneScale] at h1 h2
  linarith

theorem witness_CompletionMeetsResultLaw : Inv settledDemo ∧ BracketInv settledDemo ∧
    settledDemo.seq.converting = true ∧ ConvertInv .binary64 .rne .assertFinite 0x3FF0000000000000 settledDemo ∧
    seqAfter (sequencerStep settledDemo) = some .idle :=
  ⟨witness_inv_settled .assertFinite _ (by decide), witness_bracket_settled _, rfl,
    witness_convertInv_settled .assertFinite _ (by decide), rfl⟩

theorem witness_ResultDependsOnFormatPolicyPattern :
    (Inv settledDemo ∧ BracketInv settledDemo ∧ ConvertInv .binary64 .rne .assertFinite 0x3FF0000000000000 settledDemo) ∧
      (Inv (searching 0x1101 0x3FF0000000000000 oneClass oneScale .cvSettle 16 4 16) ∧
        BracketInv (searching 0x1101 0x3FF0000000000000 oneClass oneScale .cvSettle 16 4 16) ∧
        ConvertInv .binary64 .rne .ignore 0x3FF0000000000000
          (searching 0x1101 0x3FF0000000000000 oneClass oneScale .cvSettle 16 4 16)) ∧
      ConvertReady .binary64 .rne .assertFinite 0x3FF0000000000000 convertDemo ∧
      ConvertReady .binary64 .rne .ignore 0x3FF0000000000000 (demo 0x1101 0x3FF0000000000000 7 8) :=
  ⟨⟨witness_inv_settled .assertFinite _ (by decide), witness_bracket_settled _,
      witness_convertInv_settled .assertFinite _ (by decide)⟩,
    ⟨witness_inv_settled .ignore _ (by decide), witness_bracket_settled _,
      witness_convertInv_settled .ignore _ (by decide)⟩,
    witness_ConvertMeetsResultLaw, witness_convertReady 0x1101 .ignore (by decide) 7 8⟩

/-- `(1, 3]` in steps of 1: the greatest result is the contained upper edge 3. -/
theorem witness_ResultLawProperties : IsShortest (inInterval 1 1 false false true) 3 0 ∧ 1 ≤ 1 := by
  have hu : upperEdge 1 1 = 3 := by norm_num [upperEdge]
  have hl : lowerEdge 1 1 false = 1 := by norm_num [lowerEdge]
  have hle : ∀ v, inInterval 1 1 false false true v → v ≤ 3 := by
    rintro v (⟨-, h⟩ | ⟨h, -⟩ | ⟨-, h⟩)
    · exact hu ▸ h.le
    · cases h
    · exact (h.trans hu).le
  refine ⟨⟨by decide, .inr (.inr ⟨rfl, by rw [hu]; norm_num⟩), fun n x hn h => ?_, fun n hn h => ?_⟩, le_refl _⟩
  · by_contra hx
    have h1 : (10 : ℚ) ^ (1 : Int) ≤ 10 ^ x := zpow_le_zpow_right₀ (by norm_num) (by omega)
    have h2 : (1 : ℚ) ≤ n := by exact_mod_cast hn
    nlinarith [hle _ h]
  · have h2 := hle _ h
    simp only [zpow_zero, mul_one] at h2
    exact_mod_cast h2

/-- The second part of ResultLawProperties: the interval of binary64 1.0, whose result is 1. -/
theorem witness_ResultLawProperties_pattern :
    IsShortest (inInterval oneClass.f.toNat oneClass.e oneClass.edge true true) 1 0 ∧
      classifyPattern .binary64 0x3FF0000000000000 = oneClass ∧ patternFits .binary64 0x3FF0000000000000 = true ∧
      oneClass.cls.finiteNonzero = true := by
  have hf : oneClass.f.toNat = 0x10000000000000 := by decide
  rw [hf, show oneClass.e = -52 from rfl, show oneClass.edge = true from rfl]
  have hle : ∀ v, inInterval 0x10000000000000 (-52) true true true v → v < 2 := by
    rintro v (⟨-, h⟩ | ⟨-, h⟩ | ⟨-, h⟩)
    · exact h.trans (by norm_num [upperEdge])
    · rw [h]; norm_num [lowerEdge]
    · rw [h]; norm_num [upperEdge]
  refine ⟨⟨by decide, .inl ⟨by norm_num [lowerEdge], by norm_num [upperEdge]⟩, fun n x hn h => ?_, fun n hn h => ?_⟩,
    witness_oneClass, rfl, rfl⟩
  · by_contra hx
    have h1 : (10 : ℚ) ^ (1 : Int) ≤ 10 ^ x := zpow_le_zpow_right₀ (by norm_num) (by omega)
    have h2 : (1 : ℚ) ≤ n := by exact_mod_cast hn
    nlinarith [hle _ h]
  · have h2 := hle _ h
    simp only [zpow_zero, mul_one] at h2
    have h3 : n < 2 := by exact_mod_cast h2
    omega

end Sys2Proof.Tests
end

section
/-! PROOFS. The host's access to the register bank (10_state.md, R30 to R35): the meaning of the two bus transactions, and
what a read and a write of a read-only register leave unchanged. -/

namespace Sys2Proof.Machine

open Sys2Proof

/-- A bus write always goes on, with the host's write. -/
@[simp] theorem exec_busWrite (r : HostReg) (v : Word) (s : State) :
    exec (.busWrite r v) s = .next (hostWrite r v s) := rfl

/-- A bus read always goes on, with the host's read. -/
@[simp] theorem exec_busRead (r : HostReg) (s : State) : exec (.busRead r) s = .next (hostRead r s) := rfl

/-- A host write of a read-only register leaves the whole state as it is, the environment included (R35). -/
theorem hostWrite_of_readOnly {r : HostReg} (hr : r = .res0 ∨ r = .res1 ∨ r = .res2 ∨ r = .status) (v : Word)
    (s : State) : hostWrite r v s = s := by
  rcases hr with rfl | rfl | rfl | rfl <;> rfl

/-- A host read leaves the internal registers beside the latches alone (R35). -/
theorem hostRead_internalsKept (r : HostReg) (s : State) : InternalsKept s (hostRead r s) where
  cls := hostRead_cls r s
  scale := hostRead_scale r s
  memo := hostRead_memo r s
  search := hostRead_search r s

/-- Settles O18: the two bus transactions are the host's write and read; the write of a read-only register is the identity,
and the read touches the environment alone. -/
theorem hostAccessWithoutSideEffect : Obligations.HostAccessWithoutSideEffect := by
  intro s r v
  constructor
  · intro hr
    rw [exec_busWrite, hostWrite_of_readOnly hr]
  · refine ⟨hostRead r s, exec_busRead r s, fun r' => ?_, hostRead_seq r s, hostRead_latched r s,
      hostRead_internalsKept r s⟩
    rw [hostRead_bank]

end Sys2Proof.Machine
end

section
/-! PROOFS. The multiply family (40_multiply.md): the halves that the primitives of R150 to R152 return are those of the exact
product, since no quotient of the split is too wide for its word; then what MULW, MULWHI and MUL192 leave (R155, R157,
R160). -/

namespace Sys2Proof.Machine

open Sys2Proof

/-! ## Completion -/

/-- `complete` leaves exactly what `Completes` says (R47). -/
theorem completes_complete (r0 r1 r2 : Word) (s : State) : Completes s (complete r0 r1 r2 s) r0 r1 r2 := by
  have bank : BankCompleted s (complete r0 r1 r2 s) r0 r1 r2 := by constructor <;> simp
  have internals : InternalsKept s (complete r0 r1 r2 s) := by constructor <;> simp
  exact ⟨bank, internals, complete_env r0 r1 r2 s⟩

/-! ## The primitives -/

/-- The factor `a` is less than `2^64`, so what is left of the product above the low word is within the bound of the other
factor. -/
theorem word_mul_div_lt (a : Word) {b m : Nat} (hb : b < m) : a.toNat * b / 2 ^ 64 < m :=
  Nat.div_lt_of_lt_mul (Nat.mul_lt_mul'' a.isLt hb)

/-- Splitting a number into two words loses nothing where the high one fits. -/
theorem toNat_split_words {n : Nat} (hn : n / 2 ^ 64 < 2 ^ 64) :
    (BitVec.ofNat 64 (n / 2 ^ 64)).toNat * 2 ^ 64 + (BitVec.ofNat 64 (n % 2 ^ 64)).toNat = n := by
  rw [BitVec.toNat_ofNat, BitVec.toNat_ofNat, Nat.mod_eq_of_lt hn, Nat.mod_mod]
  exact Nat.div_add_mod' n (2 ^ 64)

/-- `multiply_wide` returns the halves of the exact product (R150). -/
theorem multiplyWide_exact (a b : Word) :
    (multiplyWide a b).1.toNat * 2 ^ 64 + (multiplyWide a b).2.toNat = a.toNat * b.toNat :=
  toNat_split_words (word_mul_div_lt a b.isLt)

/-- `multiply_wide_upper` returns the upper 64 bits of the exact product (R151). -/
theorem multiplyWideUpper_toNat (a b : Word) : (multiplyWideUpper a b).toNat = a.toNat * b.toNat / 2 ^ 64 := by
  rw [multiplyWideUpper, BitVec.toNat_ofNat]
  exact Nat.mod_eq_of_lt (word_mul_div_lt a b.isLt)

/-- `multiply_wide192_upper128` returns the halves of the truncated top 128 bits (R152). -/
theorem multiplyWide192Upper128_exact (a bHi bLo : Word) :
    (multiplyWide192Upper128 a bHi bLo).1.toNat * 2 ^ 64 + (multiplyWide192Upper128 a bHi bLo).2.toNat =
      a.toNat * (bHi.toNat * 2 ^ 64 + bLo.toNat) / 2 ^ 64 := by
  have operand_lt : bHi.toNat * 2 ^ 64 + bLo.toNat < 2 ^ 64 * 2 ^ 64 := by
    have hHi := bHi.isLt
    have hLo := bLo.isLt
    omega
  have top_lt := word_mul_div_lt a operand_lt
  exact toNat_split_words (Nat.div_lt_of_lt_mul top_lt)

/-! ## The commands -/

@[simp] theorem exec_mulw (fmt : Fmt) (rmode : RMode) (cpol : CasePolicy) (s : State) :
    exec (.mulw fmt rmode cpol) s =
      .next (complete (multiplyWide s.latched.la.val s.latched.lb.val).2
        (multiplyWide s.latched.la.val s.latched.lb.val).1 0 s) := rfl

@[simp] theorem exec_mulwhi (fmt : Fmt) (rmode : RMode) (cpol : CasePolicy) (s : State) :
    exec (.mulwhi fmt rmode cpol) s =
      .next (complete (multiplyWideUpper s.latched.la.val s.latched.lb.val) 0 0 s) := rfl

@[simp] theorem exec_mul192 (fmt : Fmt) (rmode : RMode) (cpol : CasePolicy) (s : State) :
    exec (.mul192 fmt rmode cpol) s =
      .next (complete (multiplyWide192Upper128 s.latched.la.val s.latched.lc.val s.latched.lb.val).2
        (multiplyWide192Upper128 s.latched.la.val s.latched.lc.val s.latched.lb.val).1 0 s) := rfl

/-- Settles O28: the completion of MULW, with the exactness of `multiply_wide`. -/
theorem mulwExactProduct : Obligations.MulwExactProduct := by
  rintro fmt rmode cpol s _ _ rfl rfl
  exact ⟨_, _, _, exec_mulw fmt rmode cpol s, completes_complete _ _ _ s, multiplyWide_exact _ _⟩

/-- Settles O29: the completion of MULWHI, with the value of `multiply_wide_upper`. -/
theorem mulwhiUpperHalf : Obligations.MulwhiUpperHalf := by
  rintro fmt rmode cpol s _ _ rfl rfl
  exact ⟨_, _, exec_mulwhi fmt rmode cpol s, completes_complete _ _ _ s, multiplyWideUpper_toNat _ _⟩

/-- Settles O30: the completion of MUL192, with the exactness of `multiply_wide192_upper128`. -/
theorem mul192TopBits : Obligations.Mul192TopBits := by
  rintro fmt rmode cpol s _ _ _ rfl rfl rfl
  exact ⟨_, _, _, exec_mul192 fmt rmode cpol s, completes_complete _ _ _ s, multiplyWide192Upper128_exact _ _ _⟩

end Sys2Proof.Machine
end

section
/-! PROOFS. Decoding and encoding (30_encoding.md): the fields of a command word and of a bus transaction as the encoder lays
them out, which words select a row of the opcode table by match and mask (R125), and the two round trips. -/

namespace Sys2Proof

/-! ## The one-bit and three-bit fields by their numbers (R112 to R114, R30) -/

theorem rmodeOfBits_rmodeBits (rmode : RMode) : rmodeOfBits (rmodeBits rmode) = rmode := by cases rmode <;> rfl

theorem rmodeBits_rmodeOfBits (r : BitVec 3) : rmodeBits (rmodeOfBits r) = r := by revert r; decide

theorem regOfIdx_idxBits (r : HostReg) : regOfIdx (idxBits r) = r := by cases r <;> rfl

theorem idxBits_regOfIdx (i : BitVec 3) : idxBits (regOfIdx i) = i := by revert i; decide

/-- The bit that a format stands for (R112). -/
theorem fmtBits_eq (b : Bool) : fmtBits (if b then .binary64 else .binary32) = BitVec.ofBool b := by cases b <;> rfl

/-- The bit that a case policy stands for (R114). -/
theorem cpolBits_eq (b : Bool) : cpolBits (if b then .ignore else .assertFinite) = BitVec.ofBool b := by cases b <;> rfl

/-! ## The fields of an encoded command word -/

/-- Where each bit of a command word comes from (R110). -/
theorem getLsbD_commandWord (op : BitVec 8) (fmt : Fmt) (rmode : RMode) (cpol : CasePolicy) (i : Nat) :
    (commandWord op fmt rmode cpol).getLsbD i =
      if i < 8 then op.getLsbD i else if i < 9 then (fmtBits fmt).getLsbD (i - 8)
      else if i < 12 then (rmodeBits rmode).getLsbD (i - 9) else (cpolBits cpol).getLsbD (i - 12) := by
  have append : (commandWord op fmt rmode cpol).getLsbD i =
      ((0#51 ++ cpolBits cpol ++ rmodeBits rmode ++ fmtBits fmt) ++ op).getLsbD i := rfl
  rw [append]
  grind

@[simp] theorem opField_commandWord (op : BitVec 8) (fmt : Fmt) (rmode : RMode) (cpol : CasePolicy) :
    opField (commandWord op fmt rmode cpol) = op := by
  ext i hi
  simp [opField, getLsbD_commandWord, hi]

@[simp] theorem fmtField_commandWord (op : BitVec 8) (fmt : Fmt) (rmode : RMode) (cpol : CasePolicy) :
    fmtField (commandWord op fmt rmode cpol) = fmt := by
  rw [fmtField, getLsbD_commandWord]
  cases fmt <;> rfl

@[simp] theorem rmodeField_commandWord (op : BitVec 8) (fmt : Fmt) (rmode : RMode) (cpol : CasePolicy) :
    rmodeField (commandWord op fmt rmode cpol) = rmode := by
  have bits : (commandWord op fmt rmode cpol).extractLsb' 9 3 = rmodeBits rmode := by
    ext i hi
    simp [getLsbD_commandWord, show ¬9 + i < 8 by omega, show 9 + i < 12 by omega, hi]
  rw [rmodeField, bits, rmodeOfBits_rmodeBits]

@[simp] theorem cpolField_commandWord (op : BitVec 8) (fmt : Fmt) (rmode : RMode) (cpol : CasePolicy) :
    cpolField (commandWord op fmt rmode cpol) = cpol := by
  rw [cpolField, getLsbD_commandWord]
  cases cpol <;> rfl

@[simp] theorem reservedField_commandWord (op : BitVec 8) (fmt : Fmt) (rmode : RMode) (cpol : CasePolicy) :
    reservedField (commandWord op fmt rmode cpol) = 0 := by
  ext i hi
  simp [reservedField, getLsbD_commandWord, show ¬13 + i < 8 by omega, show ¬13 + i < 9 by omega,
    show ¬13 + i < 12 by omega, show 13 + i - 12 = i + 1 by omega]

/-- A word whose reserved bits are 0 has no bit above bit 12 (R115). -/
theorem getLsbD_of_reservedField {w : Word} (hw : reservedField w = 0) {i : Nat} (hi : 13 ≤ i) : w.getLsbD i = false := by
  by_cases h : i < 64
  · have := congrArg (fun r => r.getLsbD (i - 13)) hw
    simpa [reservedField, show i - 13 < 51 by omega, show 13 + (i - 13) = i by omega] using this
  · exact BitVec.getLsbD_of_ge w i (by omega)

/-- A word without reserved bits is the command word of its fields: no other bit is left (R110, R115). -/
theorem commandWord_fields {w : Word} (hw : reservedField w = 0) :
    commandWord (opField w) (fmtField w) (rmodeField w) (cpolField w) = w := by
  refine BitVec.eq_of_getLsbD_eq fun i _ => ?_
  rw [getLsbD_commandWord, rmodeField, rmodeBits_rmodeOfBits, fmtField, fmtBits_eq, cpolField, cpolBits_eq, opField]
  have reserved : 13 ≤ i → w.getLsbD i = false := getLsbD_of_reservedField hw
  grind

/-! ## The `OP` values (R120) -/

/-- The eleven `OP` values (R120). -/
def opValues : List (BitVec 8) := [0x01, 0x02, 0x03, 0x10, 0x11, 0x12, 0x20, 0x21, 0x30, 0x40, 0x41]

/-- The rows' match values are the `OP` values, zero-extended (R125). -/
theorem commandMatches_eq : commandMatches = opValues.map (BitVec.setWidth 64) := rfl

theorem mem_opValues_iff {op : BitVec 8} :
    op ∈ opValues ↔ op.toNat ∈ [0x01, 0x02, 0x03, 0x10, 0x11, 0x12, 0x20, 0x21, 0x30, 0x40, 0x41] := by
  rw [← List.mem_map_of_injective (f := BitVec.toNat) fun _ _ => BitVec.eq_of_toNat_eq]
  rfl

/-- An `OP` value selects a command exactly where it is one of the eleven (R120, R124). -/
theorem commandOfOp_eq_none_iff {op : BitVec 8} {fmt : Fmt} {rmode : RMode} {cpol : CasePolicy} :
    commandOfOp op fmt rmode cpol = none ↔ op ∉ opValues := by
  rw [mem_opValues_iff]
  unfold commandOfOp
  split <;> simp_all

/-- The encoder writes the `OP` value and the fields that the decoder has read (R120, R143). -/
theorem encode_of_commandOfOp {op : BitVec 8} {fmt : Fmt} {rmode : RMode} {cpol : CasePolicy} {i : Instr}
    (h : commandOfOp op fmt rmode cpol = some i) : encode i = .cmd (commandWord op fmt rmode cpol) := by
  have word_of_toNat {n : Nat} (hop : op.toNat = n) : op = BitVec.ofNat 8 n := by rw [← hop, BitVec.ofNat_toNat]; simp
  unfold commandOfOp at h
  split at h <;> cases h <;> (rw [encode, word_of_toNat ‹op.toNat = _›]; rfl)

/-! ## Command words -/

/-- When a command word decodes (R111, R115, R124). -/
theorem decodeCmd_eq_ok_iff {w : Word} {i : Instr} :
    decodeCmd w = .ok i ↔
      commandOfOp (opField w) (fmtField w) (rmodeField w) (cpolField w) = some i ∧ reservedField w = 0 := by
  unfold decodeCmd
  cases commandOfOp (opField w) (fmtField w) (rmodeField w) (cpolField w) with
  | none => simp
  | some j => by_cases hw : reservedField w = 0#51 <;> simp [hw]

/-- A command word of an `OP` value that selects a command decodes to it. -/
theorem decodeCmd_commandWord {op : BitVec 8} {fmt : Fmt} {rmode : RMode} {cpol : CasePolicy} {i : Instr}
    (h : commandOfOp op fmt rmode cpol = some i) : decodeCmd (commandWord op fmt rmode cpol) = .ok i := by
  simp [decodeCmd_eq_ok_iff, h]

/-- A command word is the encoding of what it decodes to. -/
theorem encode_of_decodeCmd {w : Word} {i : Instr} (h : decodeCmd w = .ok i) : encode i = .cmd w := by
  obtain ⟨hop, hw⟩ := decodeCmd_eq_ok_iff.1 h
  rw [encode_of_commandOfOp hop, commandWord_fields hw]

/-- The mask of R125 keeps the `OP` field and the reserved bits. -/
theorem getLsbD_commandMask {i : Nat} (hi : i < 64) : commandMask.getLsbD i = decide (i < 8 ∨ 13 ≤ i) := by
  have bits : ∀ j : Fin 64, commandMask.getLsbD j = decide (j.val < 8 ∨ 13 ≤ j.val) := by decide
  exact bits ⟨i, hi⟩

/-- Selecting a row by match and mask is having its `OP` value and no reserved bit (R125). -/
theorem and_commandMask_eq_iff {w : Word} {op : BitVec 8} :
    w &&& commandMask = op.setWidth 64 ↔ opField w = op ∧ reservedField w = 0 := by
  constructor
  · intro h
    have bits (i : Nat) (hi : i < 64) : (w.getLsbD i && decide (i < 8 ∨ 13 ≤ i)) = op.getLsbD i := by
      have bit := congrArg (fun v => v.getLsbD i) h
      simp only [BitVec.getLsbD_and, getLsbD_commandMask hi, BitVec.getLsbD_setWidth, hi, decide_true, Bool.true_and] at bit
      exact bit
    constructor
    · ext i hi
      have := bits i (by omega)
      simp_all [opField]
    · ext i hi
      have := bits (13 + i) (by omega)
      simp_all [reservedField, BitVec.getLsbD_of_ge op (13 + i) (by omega)]
  · rintro ⟨rfl, hw⟩
    refine BitVec.eq_of_getLsbD_eq fun i hi => ?_
    rw [BitVec.getLsbD_and, getLsbD_commandMask hi, opField]
    have reserved : 13 ≤ i → w.getLsbD i = false := getLsbD_of_reservedField hw
    grind

/-- A command word that selects the row of an `OP` value decodes to the instruction of that row (R125). -/
theorem decodeCmd_of_row {w : Word} {op : BitVec 8} {i : Instr} (hrow : w &&& commandMask = op.setWidth 64)
    (hop : commandOfOp op (fmtField w) (rmodeField w) (cpolField w) = some i) : decodeCmd w = .ok i := by
  obtain ⟨rfl, hw⟩ := and_commandMask_eq_iff.1 hrow
  exact decodeCmd_eq_ok_iff.2 ⟨hop, hw⟩

/-- A command word decodes exactly where it selects one of the rows (R125). -/
theorem decodes_iff_row {w : Word} : (∃ i, decodeCmd w = .ok i) ↔ w &&& commandMask ∈ commandMatches := by
  have selected : w &&& commandMask ∈ commandMatches ↔ opField w ∈ opValues ∧ reservedField w = 0 := by
    simp only [commandMatches_eq, List.mem_map, eq_comm (b := w &&& commandMask), and_commandMask_eq_iff]
    grind
  have decoded : (∃ i, commandOfOp (opField w) (fmtField w) (rmodeField w) (cpolField w) = some i) ↔
      opField w ∈ opValues := by
    rw [← Option.ne_none_iff_exists', Ne, commandOfOp_eq_none_iff, not_not]
  simp only [decodeCmd_eq_ok_iff, exists_and_right, decoded, selected]

/-! ## Bus transactions -/

/-- Where each bit of a bus transaction comes from (R140). -/
theorem getLsbD_transaction (rw : BitVec 1) (idx : BitVec 3) (data : Word) (i : Nat) :
    (rw ++ idx ++ data : BusWord).getLsbD i =
      if i < 64 then data.getLsbD i else if i < 67 then idx.getLsbD (i - 64) else rw.getLsbD (i - 67) := by
  have append : (rw ++ idx ++ data : BusWord).getLsbD i = ((rw ++ idx) ++ data).getLsbD i := rfl
  rw [append]
  grind

/-- A transaction is made up of its fields (R140). -/
theorem transaction_fields (t : BusWord) :
    (BitVec.ofBool (t.getLsbD 67) ++ t.extractLsb' 64 3 ++ t.extractLsb' 0 64 : BusWord) = t := by
  refine BitVec.eq_of_getLsbD_eq fun i hi => ?_
  rw [getLsbD_transaction]
  grind

/-- When a transaction decodes: RW and DATA choose between the write and the read (R140). -/
theorem decodeTxn_cases (t : BusWord) :
    (t.getLsbD 67 = true ∧ decodeTxn t = .ok (.busWrite (regOfIdx (t.extractLsb' 64 3)) (t.extractLsb' 0 64))) ∨
      (t.getLsbD 67 = false ∧ t.extractLsb' 0 64 = 0 ∧ decodeTxn t = .ok (.busRead (regOfIdx (t.extractLsb' 64 3)))) ∨
      (t.getLsbD 67 = false ∧ t.extractLsb' 0 64 ≠ 0 ∧ ∀ i, decodeTxn t ≠ .ok i) := by
  by_cases hrw : t.getLsbD 67 = true
  · exact .inl ⟨hrw, if_pos hrw⟩
  · have go_on : decodeTxn t = _ := if_neg hrw
    refine .inr ?_
    rw [go_on, ← Bool.not_eq_true]
    by_cases hd : t.extractLsb' 0 64 = 0
    · exact .inl ⟨hrw, hd, if_pos hd⟩
    · exact .inr ⟨hrw, hd, fun i h => by cases (if_neg hd).symm.trans h⟩

/-- A transaction is the encoding of what it decodes to. -/
theorem encode_of_decodeTxn {t : BusWord} {i : Instr} (h : decodeTxn t = .ok i) : encode i = .txn t := by
  rcases decodeTxn_cases t with ⟨hrw, ht⟩ | ⟨hrw, hdata, ht⟩ | ⟨-, -, ht⟩
  · cases ht.symm.trans h
    rw [encode, idxBits_regOfIdx, ← congrArg CodeWord.txn (transaction_fields t), hrw]
    rfl
  · cases ht.symm.trans h
    rw [encode, idxBits_regOfIdx, ← congrArg CodeWord.txn (transaction_fields t), hrw, hdata]
    rfl
  · exact absurd h (ht i)

/-- An encoded write decodes to itself. -/
theorem decodeTxn_busWrite (r : HostReg) (v : Word) :
    decodeTxn ((1 : BitVec 1) ++ idxBits r ++ v) = .ok (.busWrite r v) := by
  have hrw : ((1 : BitVec 1) ++ idxBits r ++ v : BusWord).getLsbD 67 = true := by rw [getLsbD_transaction]; rfl
  have hidx : ((1 : BitVec 1) ++ idxBits r ++ v : BusWord).extractLsb' 64 3 = idxBits r := by
    ext i hi
    rw [BitVec.getElem_extractLsb', getLsbD_transaction]
    grind
  have hdata : ((1 : BitVec 1) ++ idxBits r ++ v : BusWord).extractLsb' 0 64 = v := by
    ext i hi
    rw [BitVec.getElem_extractLsb', getLsbD_transaction]
    grind
  rw [decodeTxn, hrw, hidx, hdata, regOfIdx_idxBits]
  rfl

/-- An encoded read decodes to itself. -/
theorem decodeTxn_busRead (r : HostReg) :
    decodeTxn ((0 : BitVec 1) ++ idxBits r ++ (0 : Word)) = .ok (.busRead r) := by
  cases r <;> rfl

/-! ## The obligations -/

/-- Settles O1: the decoder reads back the fields of a command word, and those of a transaction. -/
theorem decodeEncodeRoundTrip : Obligations.DecodeEncodeRoundTrip := by
  intro i
  cases i with
  | busWrite r v => exact decodeTxn_busWrite r v
  | busRead r => exact decodeTxn_busRead r
  | _ => exact decodeCmd_commandWord rfl

/-- Settles O2: a word without reserved bits is made up of the fields read, and so is a transaction. -/
theorem encodeDecodeRoundTrip : Obligations.EncodeDecodeRoundTrip := by
  intro w i h
  cases w with
  | cmd w => exact encode_of_decodeCmd h
  | txn t => exact encode_of_decodeTxn h

/-- The fields of R113 by their numbers. -/
theorem rmodeField_of_mem {w : Word} {rmode : RMode}
    (h : ((w.extractLsb' 9 3).toNat, rmode) ∈ [(0, RMode.rne), (1, .rtz), (2, .rdn), (3, .rup), (4, .fast),
      (5, .reserved5), (6, .reserved6), (7, .reserved7)]) : rmodeField w = rmode := by
  have table : ∀ (r : BitVec 3) (rmode : RMode), (r.toNat, rmode) ∈ [(0, RMode.rne), (1, .rtz), (2, .rdn), (3, .rup),
      (4, .fast), (5, .reserved5), (6, .reserved6), (7, .reserved7)] → rmodeOfBits r = rmode := by
    intro r rmode
    revert r
    cases rmode <;> decide
  exact table _ _ h

/-- The registers of R30 by their numbers. -/
theorem regOfIdx_of_mem {i : BitVec 3} {r : HostReg}
    (h : (i.toNat, r) ∈ [(0, HostReg.cmd), (1, .opa), (2, .opb), (3, .opc), (4, .res0), (5, .res1), (6, .res2),
      (7, .status)]) : regOfIdx i = r := by
  revert i
  cases r <;> decide

/-- Settles O3: a row is selected by its `OP` value, a transaction by RW and DATA. -/
theorem decodesExactlyTheTableRows : Obligations.DecodesExactlyTheTableRows := by
  constructor
  · rintro w _ rmode _ rfl hrmode rfl
    obtain rfl := rmodeField_of_mem hrmode
    exact ⟨fun h => decodeCmd_of_row (op := 0x01) h rfl, fun h => decodeCmd_of_row (op := 0x02) h rfl,
      fun h => decodeCmd_of_row (op := 0x03) h rfl, fun h => decodeCmd_of_row (op := 0x10) h rfl,
      fun h => decodeCmd_of_row (op := 0x11) h rfl, fun h => decodeCmd_of_row (op := 0x12) h rfl,
      fun h => decodeCmd_of_row (op := 0x20) h rfl, fun h => decodeCmd_of_row (op := 0x21) h rfl,
      fun h => decodeCmd_of_row (op := 0x30) h rfl, fun h => decodeCmd_of_row (op := 0x40) h rfl,
      fun h => decodeCmd_of_row (op := 0x41) h rfl, decodes_iff_row⟩
  · intro t r hr
    obtain rfl := regOfIdx_of_mem hr
    rcases decodeTxn_cases t with ⟨hrw, ht⟩ | ⟨hrw, hdata, ht⟩ | ⟨hrw, hdata, ht⟩
    · exact ⟨fun _ => ht, fun h => absurd (hrw.symm.trans h) (by decide), fun h => absurd (hrw.symm.trans h) (by decide)⟩
    · exact ⟨fun h => absurd (hrw.symm.trans h) (by decide), fun _ _ => ht, fun _ h => absurd hdata h⟩
    · exact ⟨fun h => absurd (hrw.symm.trans h) (by decide), fun _ h => absurd h hdata, fun _ _ => ht⟩

/-- Settles O4: the decoder computes. -/
theorem sampleWordsDecode : Obligations.SampleWordsDecode := by
  unfold Obligations.SampleWordsDecode
  decide

end Sys2Proof
end

section
/-! PROOFS. The register bank and the agents' steps (10_state.md, 30_encoding.md R130 and R140, 60_exceptions.md, 70_reset_and_hazards.md):
which operation each step runs, the frame of acceptance, overrun, fault entry and reset, and the word of STATUS. -/

namespace Sys2Proof.Machine

open Sys2Proof

/-! ## What each agent's step runs -/

theorem popInbox_of_quiet {s : State} (h : s.env.inbox = []) : popInbox s = s := by
  obtain ⟨bank, seq, latched, cls, scale, memo, search, inbox, resp, draws⟩ := s
  simp_all [popInbox]

/-- Where the sequencer's turn is next, the step is the sequencer's (R395). -/
theorem step_of_sequencerNext {s : State} (h : SequencerNext s) : step s = sequencerStep (popInbox s) := by
  rcases h with hquiet | ⟨rest, hnext⟩
  · rw [popInbox_of_quiet hquiet]
    exact systemStep_quiet hquiet
  · exact systemStep_event hnext

theorem step_of_quiet {s : State} (h : s.env.inbox = []) : step s = sequencerStep s := systemStep_quiet h

theorem sequencerStep_of_idle {s : State} (h : s.seq = .idle) : sequencerStep s = .next s := by simp [sequencerStep, h]

theorem sequencerStep_of_exec {s : State} (h : s.seq = .exec) : sequencerStep s = execStep s := by simp [sequencerStep, h]

theorem sequencerStep_of_cvScale {s : State} (h : s.seq = .cvScale) : sequencerStep s = cvScale s := by
  simp [sequencerStep, h]

theorem sequencerStep_of_cvInit {s : State} (h : s.seq = .cvInit) : sequencerStep s = cvInit s := by
  simp [sequencerStep, h]

theorem sequencerStep_of_cvUp {s : State} (h : s.seq = .cvUp) : sequencerStep s = cvUp s := by simp [sequencerStep, h]

theorem sequencerStep_of_cvDown {s : State} (h : s.seq = .cvDown) : sequencerStep s = cvDown s := by
  simp [sequencerStep, h]

theorem sequencerStep_of_cvSettle {s : State} (h : s.seq = .cvSettle) : sequencerStep s = cvSettle s := by
  simp [sequencerStep, h]

theorem sequencerStep_of_cvTail {s : State} (h : s.seq = .cvTail) : sequencerStep s = cvTail s := by
  simp [sequencerStep, h]

theorem sequencerStep_of_faulted {s : State} (h : s.seq = .faulted) : sequencerStep s = .next s := by
  simp [sequencerStep, h]

/-- A latched word that decodes runs its instruction (R320). -/
theorem execStep_of_decodes {s : State} {i : Instr} (h : decodeCmd s.latched.lcmd.val = .ok i) :
    execStep s = exec i s := by
  simp [execStep, h]

/-- A latched word that is no command takes ILLEGAL_COMMAND (R124). -/
theorem execStep_of_illegal {s : State} (h : ∀ i, decodeCmd s.latched.lcmd.val ≠ .ok i) :
    execStep s = raiseFault .illegalCommand s := by
  cases hd : decodeCmd s.latched.lcmd.val with
  | ok i => exact absurd hd (h i)
  | error _ => simp [execStep, hd]

/-- A transaction that decodes runs its instruction (R140). -/
theorem hostTransaction_of_decodes {t : BusWord} {i : Instr} (h : decodeTxn t = .ok i) (s : State) :
    hostTransaction t s = exec i s := by
  simp [hostTransaction, h]

/-- A host transaction that goes on is a write or a read (R140). -/
theorem hostTransaction_cases {w : BusWord} {s t : State} (h : hostTransaction w s = .next t) :
    (∃ r v, t = hostWrite r v s) ∨ ∃ r, t = hostRead r s := by
  rcases decodeTxn_cases w with ⟨-, hw⟩ | ⟨-, -, hw⟩ | ⟨-, -, hw⟩
  · rw [hostTransaction_of_decodes hw, exec_busWrite] at h
    cases h
    exact .inl ⟨_, _, rfl⟩
  · rw [hostTransaction_of_decodes hw, exec_busRead] at h
    cases h
    exact .inr ⟨_, rfl⟩
  · cases hd : decodeTxn w with
    | ok i => exact absurd hd (hw i)
    | error _ => simp [hostTransaction, hd] at h

/-! ## Frames -/

/-- Fault entry leaves exactly what `Faults` says (R346). -/
theorem faults_faultEntry (code : FaultCode) (w : Word) (s : State) : Faults code w s (faultEntry code w s) := by
  have internals : InternalsKept s (faultEntry code w s) := by constructor <;> simp
  constructor <;> simp [opField, internals]

/-- A host write leaves the internal registers beside the latches alone (R52). -/
theorem hostWrite_internalsKept (r : HostReg) (v : Word) (s : State) : InternalsKept s (hostWrite r v s) := by
  obtain ⟨-, -, -, hcls, hscale, hmemo, hsearch, -⟩ := hostWrite_frame r v s
  exact ⟨hcls, hscale, hmemo, hsearch⟩

/-- A write of an operand register changes that register alone (R32, R81). -/
theorem hostWrite_operand {r : HostReg} (hr : r = .opa ∨ r = .opb ∨ r = .opc) (v : Word) (s : State) :
    (hostWrite r v s).bank.get r = v ∧ (∀ r', r' ≠ r → (hostWrite r v s).bank.get r' = s.bank.get r') ∧
      (hostWrite r v s).bank.status = s.bank.status ∧ (hostWrite r v s).seq = s.seq ∧
      (hostWrite r v s).latched = s.latched := by
  rcases hr with rfl | rfl | rfl <;>
    exact ⟨rfl, fun r' hr' => by cases r' <;> simp_all [hostWrite, Bank.get], rfl, rfl, rfl⟩

/-! ## STATUS as a word -/

/-- Where each bit of the word of STATUS comes from (R34). -/
theorem getLsbD_statusWord (st : Status) (i : Nat) :
    st.word.getLsbD i = if i < 1 then (BitVec.ofBool st.busy).getLsbD i else if i < 2 then (BitVec.ofBool st.done).getLsbD (i - 1)
      else if i < 3 then (BitVec.ofBool st.fault).getLsbD (i - 2) else if i < 4 then (BitVec.ofBool st.ovr).getLsbD (i - 3)
      else if i < 8 then st.fcode.bits.getLsbD (i - 4) else st.fop.getLsbD (i - 8) := by
  have append : st.word.getLsbD i = (((0 : BitVec 48) ++ st.fop ++ st.fcode.bits ++ BitVec.ofBool st.ovr ++
    BitVec.ofBool st.fault ++ BitVec.ofBool st.done) ++ BitVec.ofBool st.busy).getLsbD i := rfl
  rw [append]
  grind

theorem statusWord_fcode (st : Status) : st.word.extractLsb' 4 4 = st.fcode.bits := by
  ext i hi
  rw [BitVec.getElem_extractLsb', getLsbD_statusWord]
  grind

theorem statusWord_fop (st : Status) : st.word.extractLsb' 8 8 = st.fop := by
  ext i hi
  rw [BitVec.getElem_extractLsb', getLsbD_statusWord]
  grind

theorem statusWord_reserved (st : Status) : st.word.extractLsb' 16 48 = 0 := by
  ext i hi
  rw [BitVec.getElem_extractLsb', getLsbD_statusWord]
  grind

/-! ## The obligations -/

/-- Settles O5. -/
theorem stepRunsLatchedCommand : Obligations.StepRunsLatchedCommand := by
  rintro s _ i hnext hseq rfl hw
  rw [step_of_sequencerNext hnext, sequencerStep_of_exec (s := popInbox s) hseq, execStep_of_decodes (s := popInbox s) hw]

/-- Settles O6. -/
theorem stepRunsHostTransaction : Obligations.StepRunsHostTransaction := by
  intro s t rest i hinbox ht
  calc step s = hostTransaction t (popInbox s) := systemStep_event hinbox
    _ = exec i (popInbox s) := hostTransaction_of_decodes ht _

/-- A placed command is accepted, and the turn that is placed with it is taken out by the next step (log entry 2). -/
theorem popInbox_placeCommand (w : Word) (s : State) : popInbox (placeCommand w s) = accept w s := rfl

/-- Settles O7. -/
theorem placedCommandRunsNext : Obligations.PlacedCommandRunsNext := by
  intro s w i hw
  have decodes : decodeCmd w = .ok i := by
    have hlt : w.toNat < 2 ^ 64 := w.isLt
    cases hd : decodeCmd w with
    | ok j => simp_all [decodeTableWord, Except.toOption]
    | error _ => simp_all [decodeTableWord, Except.toOption]
  have placed : s.withFetchWord 64 w.toNat = placeCommand w s := by simp [State.withFetchWord]
  calc step (s.withFetchWord 64 w.toNat) = step (placeCommand w s) := by rw [placed]
    _ = sequencerStep (popInbox (placeCommand w s)) := step_of_sequencerNext (.inr ⟨_, rfl⟩)
    _ = sequencerStep (accept w s) := by rw [popInbox_placeCommand]
    _ = execStep (accept w s) := sequencerStep_of_exec rfl
    _ = exec i (accept w s) := execStep_of_decodes decodes

/-- Settles O8: such a word is no command, so the EXEC step raises the fault. -/
theorem illegalWordFaults : Obligations.IllegalWordFaults := by
  rintro s _ hnext hseq rfl hillegal
  have no_command (i : Instr) : decodeCmd s.latched.lcmd.val ≠ .ok i := by
    intro h
    obtain ⟨hop, hreserved⟩ := decodeCmd_eq_ok_iff.1 h
    rcases hillegal with hopValue | hbits
    · have := commandOfOp_eq_none_iff (fmt := fmtField s.latched.lcmd.val) (rmode := rmodeField s.latched.lcmd.val)
        (cpol := cpolField s.latched.lcmd.val).2 (mt mem_opValues_iff.1 hopValue)
      cases this.symm.trans hop
    · exact hbits hreserved
  refine ⟨faultEntry .illegalCommand s.latched.lcmd.val (popInbox s), ?_, faults_faultEntry _ _ _⟩
  rw [step_of_sequencerNext hnext, sequencerStep_of_exec (s := popInbox s) hseq]
  exact execStep_of_illegal (s := popInbox s) no_command

/-- Settles O9. -/
theorem resetStateValues : Obligations.ResetStateValues := by
  refine ⟨fun r => ?_, ?_⟩
  · cases r <;> rfl
  · simp [State.reset]

/-- Settles O10. -/
theorem resetEventRestoresBlock : Obligations.ResetEventRestoresBlock := by
  intro s rest hinbox
  refine ⟨applyReset (popInbox s), systemStep_event hinbox, resetStateValues.1, rfl, rfl, rfl, rfl, rfl, rfl, rfl, ?_, rfl,
    rfl⟩
  simp [hinbox]

/-- After reset nothing runs, so the invariants of a running command have nothing to hold; STATUS is 0 (R380). -/
theorem inv_reset (env : Environment) : Inv { State.reset with env := env } where
  status := ⟨rfl, rfl, fun h => (by cases h), fun _ => ⟨rfl, rfl⟩, fun h => (by cases h)⟩
  latch := ⟨fun h => absurd rfl h, fun h => absurd rfl h⟩
  convert := fun h => (by cases h)

/-- Settles O11. -/
theorem resetMeetsInvariant : Obligations.ResetMeetsInvariant :=
  ⟨inv_reset State.reset.env, fun t h => (by cases h), .of_not_converting rfl⟩

/-- Settles O16. -/
theorem statusWordFields : Obligations.StatusWordFields := by
  intro st
  simp only [statusWord_fcode, statusWord_fop, statusWord_reserved, getLsbD_statusWord]
  refine ⟨by simp, by simp, by simp, by simp, ?_, ?_, ?_, ?_, ?_, trivial, trivial⟩ <;> intro h <;> rw [h] <;> rfl

/-- Settles O17. -/
theorem operandWriteChangesOnlyThatRegister : Obligations.OperandWriteChangesOnlyThatRegister := by
  intro s r v hr
  obtain ⟨hget, hother, hstatus, hseq, hlatched⟩ := hostWrite_operand hr v s
  obtain ⟨-, -, -, -, -, -, -, henv⟩ := hostWrite_frame r v s
  exact ⟨hostWrite r v s, exec_busWrite r v s, hget, hother, hstatus, hseq, hlatched, hostWrite_internalsKept r v s, henv⟩

/-- Settles O19: in IDLE the write is an acceptance. -/
theorem commandAccepted : Obligations.CommandAccepted := by
  intro s v hidle
  have accepted : hostWrite .cmd v s = accept v s := if_pos hidle
  refine ⟨accept v s, by rw [exec_busWrite, accepted], rfl, rfl, rfl, rfl, rfl, rfl, rfl, rfl, rfl, rfl, rfl, rfl, ?_,
    ⟨rfl, rfl, rfl, rfl⟩, rfl⟩
  intro r hcmd hstatus
  cases r <;> simp_all [Bank.get]

/-- Settles O20: outside IDLE the write is an overrun. -/
theorem commandOverrun : Obligations.CommandOverrun := by
  intro s v hidle
  have dropped : hostWrite .cmd v s = overrun s := if_neg hidle
  refine ⟨overrun s, by rw [exec_busWrite, dropped], rfl, rfl, rfl, rfl, rfl, rfl, ?_, rfl, rfl, ⟨rfl, rfl, rfl, rfl⟩, rfl⟩
  intro r hstatus
  cases r <;> simp_all [Bank.get]

/-- Settles O21. -/
theorem busReadReturnsRegister : Obligations.BusReadReturnsRegister := by
  intro s r v hv
  have register : v = s.bank.get r := by
    cases r <;> simpa [Bank.get] using hv
  subst register
  exact ⟨hostRead r s, exec_busRead r s, rfl, rfl, rfl, rfl, rfl, hostRead_internalsKept r s, rfl, rfl⟩

end Sys2Proof.Machine
end

section
/-! PROOFS. The checks of the EXEC step (46_convert.md R321): every command that checks its operands is its list of checks
followed by what it does where all pass, so a fault comes from the first check that fails, and a command that passes goes on. -/

namespace Sys2Proof.Machine

open Sys2Proof

/-! ## The checked commands as their checks and what follows -/

/-- The checks of CONVERT in the order of R321. -/
def convertChecks (fmt : Fmt) (rmode : RMode) (cpol : CasePolicy) (b : Word) : List (Bool × FaultCode) :=
  [(rmode.isReserved, .badOperand), (!patternFits fmt b, .badOperand), (notFiniteUnder fmt cpol b, .notFiniteNonzero)]

/-- The checks of IVCMP: those of CONVERT, then the range of kappa (R240, R321). -/
def ivcmpChecks (fmt : Fmt) (rmode : RMode) (cpol : CasePolicy) (b kb : Word) : List (Bool × FaultCode) :=
  convertChecks fmt rmode cpol b ++ [(outsideKappaRange fmt (sext64 kb), .range)]

/-- What CONVERT does where its checks pass (R322, R325). -/
def convertGoesOn (fmt : Fmt) (s : State) : Result :=
  let c := classifyPattern fmt s.latched.la.val
  if c.cls.finiteNonzero then .next { writeClass c s with seq := .cvScale } else .next (completeDrawn (writeClass c s))

/-- What IVCMP does where its checks pass (R240, R322). -/
def ivcmpGoesOn (fmt : Fmt) (rmode : RMode) (s : State) : Result :=
  let c := classifyPattern fmt s.latched.la.val
  if c.cls.finiteNonzero then
    match scaleOf fmt rmode c.sgn c.f.toNat c.e c.edge with
    | .error r => .fault r
    | .ok v => .next (compareAndComplete c v (sext64 s.latched.lb.val) (writeClass c s))
  else .next (completeDrawn (writeClass c s))

theorem exec_convert (fmt : Fmt) (rmode : RMode) (cpol : CasePolicy) (s : State) :
    exec (.convert fmt rmode cpol) s =
      checked (convertChecks fmt rmode cpol s.latched.la.val) s fun _ => convertGoesOn fmt s := rfl

theorem exec_ivcmp (fmt : Fmt) (rmode : RMode) (cpol : CasePolicy) (s : State) :
    exec (.ivcmp fmt rmode cpol) s =
      checked (ivcmpChecks fmt rmode cpol s.latched.la.val s.latched.lb.val) s fun _ => ivcmpGoesOn fmt rmode s := rfl

theorem exec_flog10p2 (fmt : Fmt) (rmode : RMode) (cpol : CasePolicy) (s : State) :
    exec (.flog10p2 fmt rmode cpol) s = checked [(outsideElogRange (sext64 s.latched.la.val), .range)] s fun _ =>
      .next (complete (tc64 (floorLog10Pow2 (sext64 s.latched.la.val))) 0 0 s) := rfl

theorem exec_flog2p10 (fmt : Fmt) (rmode : RMode) (cpol : CasePolicy) (s : State) :
    exec (.flog2p10 fmt rmode cpol) s = checked [(outsideElogRange (sext64 s.latched.la.val), .range)] s fun _ =>
      .next (complete (tc64 (floorLog2Pow10 (sext64 s.latched.la.val))) 0 0 s) := rfl

theorem exec_classify (fmt : Fmt) (rmode : RMode) (cpol : CasePolicy) (s : State) :
    exec (.classify fmt rmode cpol) s = checked [(!patternFits fmt s.latched.la.val, .badOperand)] s fun _ =>
      .next (complete (BitVec.ofNat 64 (classifyPattern fmt s.latched.la.val).f.toNat)
        (tc64 (classifyPattern fmt s.latched.la.val).e) (classWord (classifyPattern fmt s.latched.la.val)) s) := rfl

/-- POLICY with a mode that is not reserved, once the checks pass (R295). -/
def policyGoesOn (fmt : Fmt) (rmode : RMode) (s : State) : Result :=
  let b := s.latched.la.val
  match policyOf rmode (signOf fmt b) (significandOf fmt (expFieldOf fmt b) (mantissaOf fmt b)) with
  | none => raiseFault .badOperand s
  | some (cl, cr) => .next (complete (policyWord cl cr) 0 0 s)

theorem exec_policy (fmt : Fmt) (rmode : RMode) (cpol : CasePolicy) (s : State) :
    exec (.policy fmt rmode cpol) s =
      checked [(rmode.isReserved, .badOperand), (!patternFits fmt s.latched.la.val, .badOperand)] s fun _ =>
        policyGoesOn fmt rmode s := rfl

theorem exec_cache_of_none {fmt : Fmt} {s : State} (h : memRead fmt (sext64 s.latched.la.val) = none)
    (rmode : RMode) (cpol : CasePolicy) : exec (.cache fmt rmode cpol) s = raiseFault .range s := by
  simp [exec, execCache, h]

/-! ## A check that fails -/

/-- `raise Fault(code)` leads to the state that `Faults` describes (R346). -/
theorem faults_raiseFault (code : FaultCode) (s : State) :
    ∃ t, raiseFault code s = .next t ∧ Faults code s.latched.lcmd.val s t :=
  ⟨_, rfl, faults_faultEntry code s.latched.lcmd.val s⟩

/-- Where a check of a command fails, the first one's fault is taken (R321). -/
theorem faults_of_check {i : Instr} {s : State} {checks : List (Bool × FaultCode)} {k : Unit → Result} {code : FaultCode}
    (hexec : exec i s = checked checks s k) (h : firstFault checks = some code) :
    ∃ t, exec i s = .next t ∧ Faults code s.latched.lcmd.val s t := by
  rw [hexec, checked_fail h]
  exact faults_raiseFault code s

theorem firstFault_append (checks rest : List (Bool × FaultCode)) :
    firstFault (checks ++ rest) = (firstFault checks).or (firstFault rest) := by
  induction checks with
  | nil => rfl
  | cons c checks ih =>
    obtain ⟨b, code⟩ := c
    cases b <;> simp [ih]

/-- The checks of IVCMP fail first as those of CONVERT do, then by the range of kappa (R321). -/
theorem firstFault_ivcmpChecks (fmt : Fmt) (rmode : RMode) (cpol : CasePolicy) (b kb : Word) :
    firstFault (ivcmpChecks fmt rmode cpol b kb) =
      (firstFault (convertChecks fmt rmode cpol b)).or (if outsideKappaRange fmt (sext64 kb) then some .range else none) :=
  firstFault_append _ _

/-- A binary32 pattern with a nonzero upper half does not fit (R123 case 2). -/
theorem not_patternFits_of_wide {b : Word} (hb : 2 ^ 32 ≤ b.toNat) : patternFits .binary32 b = false := by
  simp only [patternFits, beq_eq_false_iff_ne, ne_eq]
  intro h
  have := congrArg BitVec.toNat h
  rw [BitVec.extractLsb'_toNat, Nat.shiftRight_eq_div_pow] at this
  have hlt := b.isLt
  simp at this
  omega

/-- The first failing check of CONVERT and IVCMP: a reserved mode. -/
theorem firstFault_reserved {rmode : RMode} (h : rmode.isReserved = true) (fmt : Fmt) (cpol : CasePolicy) (b : Word) :
    firstFault (convertChecks fmt rmode cpol b) = some .badOperand := by
  simp [convertChecks, h]

/-- The first failing check of CONVERT and IVCMP: the pattern is too wide, and the mode may be reserved. -/
theorem firstFault_wide {fmt : Fmt} {b : Word} (h : patternFits fmt b = false) (rmode : RMode) (cpol : CasePolicy) :
    firstFault (convertChecks fmt rmode cpol b) = some .badOperand := by
  simp [convertChecks, h]

/-- Where the decoding checks pass, a zero, infinity or NaN fails the next one under ASSERT_FINITE (R311). -/
theorem firstFault_not_finite {fmt : Fmt} {rmode : RMode} {b : Word} (hmode : rmode.isReserved = false)
    (hfits : patternFits fmt b = true) (hfinite : (classifyPattern fmt b).cls.finiteNonzero = false) :
    firstFault (convertChecks fmt rmode .assertFinite b) = some .notFiniteNonzero := by
  simp [convertChecks, notFiniteUnder, hmode, hfits, hfinite]

/-- The checks of CONVERT pass where the mode is defined, the pattern fits, and it is finite and nonzero or ignored. -/
theorem convertChecks_pass {fmt : Fmt} {rmode : RMode} {cpol : CasePolicy} {b : Word} (hmode : rmode.isReserved = false)
    (hfits : patternFits fmt b = true) (hfinite : cpol = .ignore ∨ (classifyPattern fmt b).cls.finiteNonzero = true) :
    firstFault (convertChecks fmt rmode cpol b) = none := by
  rcases hfinite with rfl | hfinite
  · simp [convertChecks, notFiniteUnder, hmode, hfits]
  · simp [convertChecks, notFiniteUnder, hmode, hfits, hfinite]

theorem outsideKappaRange_iff {fmt : Fmt} {kappa : Int} :
    outsideKappaRange fmt kappa = true ↔ kappa < kMin ∨ fmt.kMax < kappa := by
  simp [outsideKappaRange]

/-- The checks of IVCMP pass where those of CONVERT do and kappa is in range (R240). -/
theorem ivcmpChecks_pass {fmt : Fmt} {rmode : RMode} {cpol : CasePolicy} {b kb : Word} (hmode : rmode.isReserved = false)
    (hfits : patternFits fmt b = true) (hfinite : cpol = .ignore ∨ (classifyPattern fmt b).cls.finiteNonzero = true)
    (hmin : kMin ≤ kb.toInt) (hmax : kb.toInt ≤ fmt.kMax) : firstFault (ivcmpChecks fmt rmode cpol b kb) = none := by
  have inside : outsideKappaRange fmt (sext64 kb) = false := by
    rw [← Bool.not_eq_true, outsideKappaRange_iff, sext64]
    omega
  simp [firstFault_ivcmpChecks, convertChecks_pass hmode hfits hfinite, inside]

/-- The two checks of POLICY pass where the mode is defined and the pattern fits (R295). -/
theorem policyChecks_pass {fmt : Fmt} {rmode : RMode} {b : Word} (hmode : rmode.isReserved = false)
    (hfits : patternFits fmt b = true) :
    firstFault [(rmode.isReserved, .badOperand), (!patternFits fmt b, .badOperand)] = none := by
  simp [hmode, hfits]

/-! ## The faults -/

/-- Settles O34: the one check of both estimators fails. -/
theorem estimatorRangeFault : Obligations.EstimatorRangeFault := by
  rintro fmt rmode cpol s _ _ rfl rfl hrange
  have fails : firstFault [(outsideElogRange (sext64 s.latched.la.val), .range)] = some .range := by
    simp [outsideElogRange, sext64, hrange]
  exact ⟨faults_of_check (exec_flog10p2 ..) fails, faults_of_check (exec_flog2p10 ..) fails⟩

/-- Settles O37: the ROM answers nothing there. -/
theorem cacheRangeFault : Obligations.CacheRangeFault := by
  rintro fmt rmode cpol s _ _ rfl rfl hrange
  have no_entry : memRead fmt (sext64 s.latched.la.val) = none := by
    rw [memRead_eq_none, sext64]
    omega
  rw [exec_cache_of_none no_entry]
  exact faults_raiseFault .range s

/-- Settles O47: the checks before pass, the range check fails. -/
theorem ivcmpRangeFault : Obligations.IvcmpRangeFault := by
  rintro fmt rmode cpol s _ _ _ rfl rfl rfl hmode hfits hfinite hrange
  have fails : firstFault (ivcmpChecks fmt rmode cpol s.latched.la.val s.latched.lb.val) = some .range := by
    simp [firstFault_ivcmpChecks, convertChecks_pass hmode hfits hfinite, outsideKappaRange_iff.2 hrange, sext64]
  exact faults_of_check (exec_ivcmp ..) fails

/-- Settles O51: the first check of the three commands that use RMODE fails, or the pattern's. -/
theorem badOperandFaults : Obligations.BadOperandFaults := by
  rintro fmt rmode cpol s _ _ _ rfl rfl rfl
  constructor
  · intro hmode
    have fails (b : Word) := firstFault_reserved hmode fmt cpol b
    exact ⟨faults_of_check (exec_convert ..) (fails _), faults_of_check (exec_policy ..) (by simp [hmode]),
      faults_of_check (exec_ivcmp ..) (by simp [firstFault_ivcmpChecks, fails])⟩
  · intro hwide
    have hfits := not_patternFits_of_wide hwide
    have fails := firstFault_wide hfits rmode cpol
    exact ⟨faults_of_check (exec_convert ..) fails, faults_of_check (exec_classify ..) (by simp [hfits]),
      faults_of_check (exec_policy ..) (by simp [hfits]),
      faults_of_check (exec_ivcmp ..) (by simp [firstFault_ivcmpChecks, fails])⟩

/-- Settles O52: the decoding checks pass, the one of R311 fails. -/
theorem notFiniteFaults : Obligations.NotFiniteFaults := by
  rintro fmt rmode s _ _ _ rfl rfl rfl hmode hfits hfinite
  have fails := firstFault_not_finite hmode hfits hfinite
  exact ⟨faults_of_check (exec_convert ..) fails,
    faults_of_check (exec_ivcmp ..) (by simp [firstFault_ivcmpChecks, fails])⟩

/-! ## The EXEC step of CONVERT and IVCMP where the checks pass -/

theorem exec_convert_of_pass {fmt : Fmt} {rmode : RMode} {cpol : CasePolicy} {s : State} (hmode : rmode.isReserved = false)
    (hfits : patternFits fmt s.latched.la.val = true)
    (hfinite : cpol = .ignore ∨ (classifyPattern fmt s.latched.la.val).cls.finiteNonzero = true) :
    exec (.convert fmt rmode cpol) s = convertGoesOn fmt s :=
  (exec_convert ..).trans (checked_pass (convertChecks_pass hmode hfits hfinite))

theorem exec_ivcmp_of_pass {fmt : Fmt} {rmode : RMode} {cpol : CasePolicy} {s : State} (hmode : rmode.isReserved = false)
    (hfits : patternFits fmt s.latched.la.val = true)
    (hfinite : cpol = .ignore ∨ (classifyPattern fmt s.latched.la.val).cls.finiteNonzero = true)
    (hmin : kMin ≤ s.latched.lb.val.toInt) (hmax : s.latched.lb.val.toInt ≤ fmt.kMax) :
    exec (.ivcmp fmt rmode cpol) s = ivcmpGoesOn fmt rmode s :=
  (exec_ivcmp ..).trans (checked_pass (ivcmpChecks_pass hmode hfits hfinite hmin hmax))

theorem convertGoesOn_finite {fmt : Fmt} {s : State}
    (h : (classifyPattern fmt s.latched.la.val).cls.finiteNonzero = true) :
    convertGoesOn fmt s = .next { writeClass (classifyPattern fmt s.latched.la.val) s with seq := .cvScale } := if_pos h

theorem convertGoesOn_not_finite {fmt : Fmt} {s : State}
    (h : (classifyPattern fmt s.latched.la.val).cls.finiteNonzero = false) :
    convertGoesOn fmt s = .next (completeDrawn (writeClass (classifyPattern fmt s.latched.la.val) s)) := by
  simp [convertGoesOn, h]

theorem ivcmpGoesOn_not_finite {fmt : Fmt} {rmode : RMode} {s : State}
    (h : (classifyPattern fmt s.latched.la.val).cls.finiteNonzero = false) :
    ivcmpGoesOn fmt rmode s = .next (completeDrawn (writeClass (classifyPattern fmt s.latched.la.val) s)) := by
  simp [ivcmpGoesOn, h]

/-- A completion with free values leaves the bank as R47 says, with the free values in the results (R322). -/
theorem bankCompleted_completeDrawn (c : Classified) (s : State) :
    ∃ r0 r1 r2, BankCompleted s (completeDrawn (writeClass c s)) r0 r1 r2 :=
  ⟨_, _, _, by constructor <;> rfl⟩

/-- Settles O53: the checks pass and the pattern is finite and nonzero. -/
theorem convertClassifiesThenScales : Obligations.ConvertClassifiesThenScales := by
  rintro fmt rmode cpol s _ rfl hmode hfits hfinite
  refine ⟨_, (exec_convert_of_pass hmode hfits (.inr hfinite)).trans (convertGoesOn_finite hfinite), ?_⟩
  simp

/-- Settles O54: the checks pass, and the classification decides that the command completes. -/
theorem ignoredPatternCompletes : Obligations.IgnoredPatternCompletes := by
  rintro fmt rmode s _ _ rfl rfl hmode hfits hfinite
  obtain ⟨r0, r1, r2, hbank⟩ := bankCompleted_completeDrawn (classifyPattern fmt s.latched.la.val) s
  refine ⟨⟨_, r0, r1, r2, (exec_convert_of_pass hmode hfits (.inl rfl)).trans (convertGoesOn_not_finite hfinite), hbank, ?_⟩,
    fun hmin hmax => ⟨_, r0, r1, r2, (exec_ivcmp_of_pass hmode hfits (.inl rfl) hmin hmax).trans
      (ivcmpGoesOn_not_finite hfinite), hbank, ?_⟩⟩ <;> simp

end Sys2Proof.Machine
end

section
/-! PROOFS. The estimators, the limb form of the product, the cache ROM and the scale (40_multiply.md to 43_comparator.md
section 1): `floor_log` by its greatest power (R170), and the ranges that follow from it. -/

namespace Sys2Proof.Machine

open Sys2Proof

/-! ## The limb form of the product (R154) -/

/-- Two 32-bit limbs make up a word's number, so the four products of limbs make up the product. -/
theorem product_eq_limbs (a b : Nat) :
    a * b = a / 2 ^ 32 * (b / 2 ^ 32) * 2 ^ 64 + (a % 2 ^ 32 * (b / 2 ^ 32) + a / 2 ^ 32 * (b % 2 ^ 32)) * 2 ^ 32 +
      a % 2 ^ 32 * (b % 2 ^ 32) := by
  conv_lhs => rw [← Nat.div_add_mod a (2 ^ 32), ← Nat.div_add_mod b (2 ^ 32)]
  ring

/-- Settles O31: the carries of the middle limbs are those of the exact product. -/
theorem limbDecompositionAgrees : Obligations.LimbDecompositionAgrees := by
  intro a b
  have product := product_eq_limbs a.toNat b.toNat
  have hi : (multiplyWide a b).1.toNat = a.toNat * b.toNat / 2 ^ 64 := multiplyWideUpper_toNat a b
  have lo : (multiplyWide a b).2.toNat = a.toNat * b.toNat % 2 ^ 64 := by
    have := multiplyWide_exact a b
    omega
  rw [hi, lo, product, multiplyWideLimbs, Prod.mk.injEq]
  constructor <;> omega

/-! ## The estimators (R170) -/

theorem ten_pow_ne_two_pow (n : Nat) {e : Nat} (he : e ≠ 0) : 10 ^ n ≠ 2 ^ e := by
  intro h
  cases n with
  | zero => exact absurd (Nat.one_lt_two_pow he) (by omega)
  | succ n =>
    have five : 5 ∣ 2 ^ e := h ▸ dvd_pow (by norm_num) n.succ_ne_zero
    exact absurd (Nat.Prime.dvd_of_dvd_pow Nat.prime_five five) (by norm_num)

theorem two_pow_ne_ten_pow (n : Nat) {e : Nat} (he : e ≠ 0) : 2 ^ n ≠ 10 ^ e := by
  intro h
  have five : 5 ∣ 2 ^ n := h ▸ dvd_pow (by norm_num) he
  exact absurd (Nat.Prime.dvd_of_dvd_pow Nat.prime_five five) (by norm_num)

/-- The floor of the logarithm is characterised by the powers below it; for a negative argument because a power of `c` is
no power of `b` (R170, R173). -/
theorem floorLogPow_bounds {b c : Nat} (hb : 1 < b) (hc : 1 < c) (hne : ∀ n e : Nat, e ≠ 0 → b ^ n ≠ c ^ e) (e : Int) :
    (b : ℚ) ^ floorLogPow b c e ≤ c ^ e ∧ (c : ℚ) ^ e < b ^ (floorLogPow b c e + 1) := by
  have hb0 : (0 : ℚ) < b := by exact_mod_cast (by omega : 0 < b)
  have hc0 : (0 : ℚ) < c := by exact_mod_cast (by omega : 0 < c)
  cases e with
  | ofNat e =>
    have hlo : b ^ Nat.log b (c ^ e) ≤ c ^ e := Nat.pow_log_le_self b (by positivity)
    have hhi : c ^ e < b ^ (Nat.log b (c ^ e) + 1) := Nat.lt_pow_succ_log_self hb _
    constructor
    · simp only [floorLogPow, Int.ofNat_eq_natCast, zpow_natCast]
      exact_mod_cast hlo
    · simp only [floorLogPow, Int.ofNat_eq_natCast]
      exact_mod_cast hhi
  | negSucc e =>
    have hlo : b ^ Nat.log b (c ^ (e + 1)) < c ^ (e + 1) :=
      lt_of_le_of_ne (Nat.pow_log_le_self b (by positivity)) (hne _ _ e.succ_ne_zero)
    have hhi : c ^ (e + 1) < b ^ (Nat.log b (c ^ (e + 1)) + 1) := Nat.lt_pow_succ_log_self hb _
    have low_exponent : floorLogPow b c (.negSucc e) = -((Nat.log b (c ^ (e + 1)) + 1 : Nat) : Int) := by
      simp only [floorLogPow]; push_cast; ring
    have high_exponent : floorLogPow b c (.negSucc e) + 1 = -((Nat.log b (c ^ (e + 1)) : Nat) : Int) := by
      simp only [floorLogPow]; ring
    rw [high_exponent, low_exponent, zpow_negSucc, zpow_neg, zpow_neg, zpow_natCast, zpow_natCast]
    constructor
    · exact inv_anti₀ (by positivity) (by exact_mod_cast hhi.le)
    · exact inv_strictAnti₀ (by positivity) (by exact_mod_cast hlo)

/-- The estimators give the greatest exponent whose power fits: `n` is at most the estimate exactly where `b^n <= c^e`. -/
theorem le_floorLogPow_iff {b c : Nat} (hb : 1 < b) (hc : 1 < c) (hne : ∀ n e : Nat, e ≠ 0 → b ^ n ≠ c ^ e) {e n : Int} :
    n ≤ floorLogPow b c e ↔ (b : ℚ) ^ n ≤ c ^ e := by
  obtain ⟨hlo, hhi⟩ := floorLogPow_bounds hb hc hne e
  have hb1 : (1 : ℚ) < b := by exact_mod_cast hb
  constructor
  · intro h
    exact (zpow_le_zpow_right₀ hb1.le h).trans hlo
  · intro h
    exact Int.lt_add_one_iff.1 ((zpow_lt_zpow_iff_right₀ hb1).1 (h.trans_lt hhi))

theorem le_floorLog10Pow2_iff {e n : Int} : n ≤ floorLog10Pow2 e ↔ (10 : ℚ) ^ n ≤ 2 ^ e := by
  have := le_floorLogPow_iff (b := 10) (c := 2) (e := e) (n := n) (by norm_num) (by norm_num)
    fun n _ he => ten_pow_ne_two_pow n he
  exact_mod_cast this

theorem le_floorLog2Pow10_iff {e n : Int} : n ≤ floorLog2Pow10 e ↔ (2 : ℚ) ^ n ≤ 10 ^ e := by
  have := le_floorLogPow_iff (b := 2) (c := 10) (e := e) (n := n) (by norm_num) (by norm_num)
    fun n _ he => two_pow_ne_ten_pow n he
  exact_mod_cast this

/-- The power of the estimate fits. -/
theorem ten_pow_floorLog10Pow2_le (e : Int) : (10 : ℚ) ^ floorLog10Pow2 e ≤ 2 ^ e := le_floorLog10Pow2_iff.1 le_rfl

/-- The next power does not. -/
theorem lt_ten_pow_floorLog10Pow2 (e : Int) : (2 : ℚ) ^ e < 10 ^ (floorLog10Pow2 e + 1) :=
  not_le.1 fun h => absurd (le_floorLog10Pow2_iff.2 h) (by omega)

theorem two_pow_floorLog2Pow10_le (e : Int) : (2 : ℚ) ^ floorLog2Pow10 e ≤ 10 ^ e := le_floorLog2Pow10_iff.1 le_rfl

theorem lt_two_pow_floorLog2Pow10 (e : Int) : (10 : ℚ) ^ e < 2 ^ (floorLog2Pow10 e + 1) :=
  not_le.1 fun h => absurd (le_floorLog2Pow10_iff.2 h) (by omega)

theorem floorLog10Pow2_mono {e e' : Int} (h : e ≤ e') : floorLog10Pow2 e ≤ floorLog10Pow2 e' :=
  le_floorLog10Pow2_iff.2 ((ten_pow_floorLog10Pow2_le e).trans (zpow_le_zpow_right₀ (by norm_num) h))

theorem floorLog2Pow10_mono {e e' : Int} (h : e ≤ e') : floorLog2Pow10 e ≤ floorLog2Pow10 e' :=
  le_floorLog2Pow10_iff.2 ((two_pow_floorLog2Pow10_le e).trans (zpow_le_zpow_right₀ (by norm_num) h))

/-- The reflection of R173. -/
theorem floorLogPow_neg (b c : Nat) {e : Int} (he : e ≠ 0) : floorLogPow b c (-e) = -floorLogPow b c e - 1 := by
  rcases e with (_ | e) | e
  · exact absurd rfl he
  · rfl
  · change (Nat.log b (c ^ (e + 1)) : Int) = -(-(Nat.log b (c ^ (e + 1)) : Int) - 1) - 1
    ring

/-- The values at the ends of the domain (R173). -/
theorem estimators_at_domain_end : floorLog10Pow2 65536 = 19728 ∧ floorLog2Pow10 65536 = 217705 := by decide +kernel

theorem estimators_at_domain_start : floorLog10Pow2 (-65536) = -19729 ∧ floorLog2Pow10 (-65536) = -217706 := by
  decide +kernel

/-- Settles O35: monotony and the values near 0 follow from the greatest power, the reflection from the definition. -/
theorem estimatorProperties : Obligations.EstimatorProperties := by
  refine ⟨fun e e' h => ⟨floorLog10Pow2_mono h, floorLog2Pow10_mono h⟩, rfl, rfl,
    fun e he => ⟨floorLogPow_neg 10 2 he, floorLogPow_neg 2 10 he⟩, fun e h0 h3 => ?_, fun e h3 h1 => ?_, rfl, rfl,
    estimators_at_domain_end.1, estimators_at_domain_start.1, estimators_at_domain_end.2, estimators_at_domain_start.2⟩
  · have at_zero : floorLog10Pow2 0 ≤ floorLog10Pow2 e := floorLog10Pow2_mono h0
    have at_three : floorLog10Pow2 e ≤ floorLog10Pow2 3 := floorLog10Pow2_mono h3
    exact le_antisymm at_three at_zero
  · have at_three : floorLog10Pow2 (-3) ≤ floorLog10Pow2 e := floorLog10Pow2_mono h3
    have at_one : floorLog10Pow2 e ≤ floorLog10Pow2 (-1) := floorLog10Pow2_mono h1
    exact le_antisymm at_one at_three

/-! ## The estimators' commands (R175, R177) -/

/-- A signed result that fits its word is read back as it is (R122). -/
theorem toInt_tc64 {i : Int} (hlo : -2 ^ 63 ≤ i) (hhi : i < 2 ^ 63) : (tc64 i).toInt = i :=
  BitVec.toInt_ofInt_eq_self (by norm_num) hlo hhi

/-- Inside the domain the estimators' results fit a word (R171). -/
theorem estimators_in_domain {e : Int} (he : e.natAbs ≤ Config.elogRange) :
    (-217706 ≤ floorLog10Pow2 e ∧ floorLog10Pow2 e ≤ 217705) ∧
      (-217706 ≤ floorLog2Pow10 e ∧ floorLog2Pow10 e ≤ 217705) := by
  have range : Config.elogRange = 65536 := rfl
  have low : -65536 ≤ e := by omega
  have high : e ≤ 65536 := by omega
  have start10 := floorLog10Pow2_mono low
  have start2 := floorLog2Pow10_mono low
  have end10 := floorLog10Pow2_mono high
  have end2 := floorLog2Pow10_mono high
  rw [estimators_at_domain_start.1] at start10
  rw [estimators_at_domain_start.2] at start2
  rw [estimators_at_domain_end.1] at end10
  rw [estimators_at_domain_end.2] at end2
  omega

/-- The one check of the estimators' commands passes inside the domain. -/
theorem elogCheck_pass {e : Int} (he : e.natAbs ≤ Config.elogRange) :
    firstFault [(outsideElogRange e, .range)] = none := by
  simp [outsideElogRange, he]

/-- Settles O32. -/
theorem flog10p2ExactFloor : Obligations.Flog10p2ExactFloor := by
  rintro fmt rmode cpol s _ rfl hdomain
  obtain ⟨⟨hlo, hhi⟩, -⟩ := estimators_in_domain hdomain
  refine ⟨_, tc64 (floorLog10Pow2 (sext64 s.latched.la.val)),
    (exec_flog10p2 ..).trans (checked_pass (elogCheck_pass hdomain)), completes_complete _ _ _ s, ?_⟩
  rw [sext64, toInt_tc64 (by omega) (by omega)]
  exact ⟨ten_pow_floorLog10Pow2_le _, fun m => le_floorLog10Pow2_iff.2⟩

/-- Settles O33. -/
theorem flog2p10ExactFloor : Obligations.Flog2p10ExactFloor := by
  rintro fmt rmode cpol s _ rfl hdomain
  obtain ⟨-, hlo, hhi⟩ := estimators_in_domain hdomain
  refine ⟨_, tc64 (floorLog2Pow10 (sext64 s.latched.la.val)),
    (exec_flog2p10 ..).trans (checked_pass (elogCheck_pass hdomain)), completes_complete _ _ _ s, ?_⟩
  rw [sext64, toInt_tc64 (by omega) (by omega)]
  exact ⟨two_pow_floorLog2Pow10_le _, fun m => le_floorLog2Pow10_iff.2⟩

/-! ## The cache ROM (R190 to R195) -/

/-- `10^k` scaled by its binary magnitude lies in `[2^(Q-1), 2^Q)` (R190). -/
theorem scaledPow10_bounds (fmt : Fmt) (k : Int) :
    (2 : ℚ) ^ (fmt.cachePrecision - 1) ≤ 10 ^ k * 2 ^ ((fmt.cachePrecision : Int) - 1 - floorLog2Pow10 k) ∧
      (10 : ℚ) ^ k * 2 ^ ((fmt.cachePrecision : Int) - 1 - floorLog2Pow10 k) < 2 ^ fmt.cachePrecision := by
  have split_lo : (2 : ℚ) ^ (fmt.cachePrecision - 1) =
      2 ^ floorLog2Pow10 k * 2 ^ ((fmt.cachePrecision : Int) - 1 - floorLog2Pow10 k) := by
    rw [← zpow_add₀ (by norm_num), ← zpow_natCast]
    cases fmt <;> simp [Fmt.cachePrecision]
  have split_hi : (2 : ℚ) ^ fmt.cachePrecision =
      2 ^ (floorLog2Pow10 k + 1) * 2 ^ ((fmt.cachePrecision : Int) - 1 - floorLog2Pow10 k) := by
    rw [← zpow_add₀ (by norm_num), ← zpow_natCast]
    congr 1
    ring
  rw [split_lo, split_hi]
  exact ⟨mul_le_mul_of_nonneg_right (two_pow_floorLog2Pow10_le k) (by positivity),
    mul_lt_mul_of_pos_right (lt_two_pow_floorLog2Pow10 k) (by positivity)⟩

theorem cacheEntry_bounds (fmt : Fmt) (k : Int) :
    2 ^ (fmt.cachePrecision - 1) ≤ cacheEntry fmt k ∧ cacheEntry fmt k < 2 ^ fmt.cachePrecision := by
  obtain ⟨hlo, hhi⟩ := scaledPow10_bounds fmt k
  exact ⟨Int.le_floor.2 (by exact_mod_cast hlo), Int.floor_lt.2 (by exact_mod_cast hhi)⟩

/-- Where `5^k` fits the entry, no bit is truncated (R193). -/
theorem cacheEntry_exact {fmt : Fmt} {k : Nat} (hk : 5 ^ k < 2 ^ fmt.cachePrecision) :
    (cacheEntry fmt k : ℚ) = 10 ^ (k : Int) * 2 ^ ((fmt.cachePrecision : Int) - 1 - floorLog2Pow10 k) := by
  have magnitude : floorLog2Pow10 k < k + fmt.cachePrecision := by
    have fits : (10 : ℚ) ^ (k : Int) < 2 ^ ((k : Int) + fmt.cachePrecision) := by
      rw [zpow_add₀ (by norm_num), zpow_natCast, zpow_natCast, zpow_natCast, show (10 : ℚ) = 2 * 5 by norm_num, mul_pow]
      exact mul_lt_mul_of_pos_left (by exact_mod_cast hk) (by positivity)
    exact (zpow_lt_zpow_iff_right₀ (by norm_num : (1 : ℚ) < 2)).1 ((two_pow_floorLog2Pow10_le k).trans_lt fits)
  obtain ⟨j, hj⟩ : ∃ j : Nat, (j : Int) = k + (fmt.cachePrecision - 1 - floorLog2Pow10 k) :=
    ⟨_, Int.toNat_of_nonneg (by omega)⟩
  have integer : (10 : ℚ) ^ (k : Int) * 2 ^ ((fmt.cachePrecision : Int) - 1 - floorLog2Pow10 k) = ((5 ^ k * 2 ^ j : Int) : ℚ) := by
    push_cast
    rw [← zpow_natCast (2 : ℚ) j, hj, zpow_add₀ (by norm_num), zpow_natCast, zpow_natCast, show (10 : ℚ) = 5 * 2 by norm_num,
      mul_pow]
    ring
  rw [cacheEntry, integer, Int.floor_intCast]

/-- Settles O38. -/
theorem cacheEntriesNormalised : Obligations.CacheEntriesNormalised := by
  refine ⟨cacheEntry_bounds, fun k h0 h27 => ?_, fun k h0 h55 => ?_⟩
  · lift k to Nat using h0
    have fits : 5 ^ k ≤ 5 ^ 27 := Nat.pow_le_pow_right (by norm_num) (by omega)
    exact cacheEntry_exact (fmt := .binary32) (fits.trans_lt (by norm_num [Fmt.cachePrecision]))
  · lift k to Nat using h0
    have fits : 5 ^ k ≤ 5 ^ 55 := Nat.pow_le_pow_right (by norm_num) (by omega)
    exact cacheEntry_exact (fmt := .binary64) (fits.trans_lt (by norm_num [Fmt.cachePrecision]))

/-- A ROM entry holds its number (R84). -/
theorem romEntry_toNat (fmt : Fmt) (k : Int) : ((romEntry fmt k).toNat : Int) = cacheEntry fmt k := by
  obtain ⟨hlo, hhi⟩ := cacheEntry_bounds fmt k
  have width : (2 : Int) ^ fmt.cachePrecision ≤ 2 ^ 128 := pow_le_pow_right₀ (by norm_num) (by cases fmt <;> decide)
  have nonneg : 0 ≤ cacheEntry fmt k := le_trans (by positivity) hlo
  rw [romEntry, BitVec.toNat_ofInt, Int.toNat_of_nonneg (by omega)]
  exact Int.emod_eq_of_lt nonneg (by omega)

/-- A ROM entry is the truncation of the scaled power of ten (R190). -/
theorem romEntry_truncates (fmt : Fmt) (k : Int) :
    ((romEntry fmt k).toNat : ℚ) ≤ 10 ^ k * 2 ^ ((fmt.cachePrecision : Int) - 1 - floorLog2Pow10 k) ∧
      (10 : ℚ) ^ k * 2 ^ ((fmt.cachePrecision : Int) - 1 - floorLog2Pow10 k) < (romEntry fmt k).toNat + 1 := by
  have number : ((romEntry fmt k).toNat : ℚ) = (cacheEntry fmt k : ℚ) := by exact_mod_cast romEntry_toNat fmt k
  rw [number]
  exact ⟨Int.floor_le _, Int.lt_floor_add_one _⟩

theorem exec_cache_binary32 {s : State} {c : BitVec 128} (h : memRead .binary32 (sext64 s.latched.la.val) = some c)
    (rmode : RMode) (cpol : CasePolicy) :
    exec (.cache .binary32 rmode cpol) s = .next (complete (c.extractLsb' 0 64) 0 0 s) := by
  simp [exec, execCache, h]

theorem exec_cache_binary64 {s : State} {c : BitVec 128} (h : memRead .binary64 (sext64 s.latched.la.val) = some c)
    (rmode : RMode) (cpol : CasePolicy) :
    exec (.cache .binary64 rmode cpol) s = .next (complete (c.extractLsb' 0 64) (c.extractLsb' 64 64) 0 s) := by
  simp [exec, execCache, h]

/-- The words of a ROM entry (R192). -/
theorem entry_words (c : BitVec 128) :
    (c.extractLsb' 64 64).toNat * 2 ^ 64 + (c.extractLsb' 0 64).toNat = c.toNat := by
  have hlt := c.isLt
  rw [BitVec.extractLsb'_toNat, BitVec.extractLsb'_toNat, Nat.shiftRight_eq_div_pow, Nat.shiftRight_eq_div_pow]
  omega

/-- A binary32 entry fits the low word. -/
theorem entry_low_word {c : BitVec 128} (hc : c.toNat < 2 ^ 64) : (c.extractLsb' 0 64).toNat = c.toNat := by
  rw [BitVec.extractLsb'_toNat, Nat.shiftRight_zero, Nat.mod_eq_of_lt hc]

/-- Settles O36: the entry is the truncation of the scaled power, and its words make it up. -/
theorem cacheEntryTruncated : Obligations.CacheEntryTruncated := by
  rintro fmt rmode cpol s _ rfl hmin hmax
  have entry : memRead fmt (sext64 s.latched.la.val) = some (romEntry fmt s.latched.la.val.toInt) :=
    memRead_eq_some.2 ⟨⟨hmin, hmax⟩, rfl⟩
  obtain ⟨truncated_lo, truncated_hi⟩ := romEntry_truncates fmt s.latched.la.val.toInt
  cases fmt with
  | binary32 =>
    have narrow : (romEntry .binary32 s.latched.la.val.toInt).toNat < 2 ^ 64 := by
      have number := romEntry_toNat .binary32 s.latched.la.val.toInt
      have bound := (cacheEntry_bounds .binary32 s.latched.la.val.toInt).2
      simp only [Fmt.cachePrecision] at bound
      omega
    exact ⟨_, _, _, _, _, exec_cache_binary32 entry rmode cpol, completes_complete _ _ _ s, two_pow_floorLog2Pow10_le _,
      lt_two_pow_floorLog2Pow10 _, truncated_lo, truncated_hi, fun _ => ⟨entry_low_word narrow, rfl⟩, nofun⟩
  | binary64 =>
    exact ⟨_, _, _, _, _, exec_cache_binary64 entry rmode cpol, completes_complete _ _ _ s, two_pow_floorLog2Pow10_le _,
      lt_two_pow_floorLog2Pow10 _, truncated_lo, truncated_hi, nofun, fun _ => entry_words _⟩

/-! ## The scale (R212 to R215) -/

theorem decimalScale_eq (e : Int) : decimalScale e = floorLog10Pow2 e := by
  rw [decimalScale, show e + 1 - alpha = e from by rw [alpha]; ring]

/-- The ends of the exponent range are scaled by the ends of the ROM's index range (R191). -/
theorem decimalScale_ends (fmt : Fmt) : -decimalScale fmt.eMin = fmt.maxK ∧ -decimalScale fmt.eMaxF = fmt.minK := by
  cases fmt <;> decide +kernel

/-- Inside the exponent range the ROM index is in range, since the scale is monotone (R191). -/
theorem romIndex_in_range {fmt : Fmt} {e : Int} (hmin : fmt.eMin ≤ e) (hmax : e ≤ fmt.eMaxF) :
    fmt.minK ≤ -decimalScale e ∧ -decimalScale e ≤ fmt.maxK := by
  obtain ⟨hlow, hhigh⟩ := decimalScale_ends fmt
  have low := floorLog10Pow2_mono hmin
  have high := floorLog10Pow2_mono hmax
  rw [← decimalScale_eq, ← decimalScale_eq] at low high
  omega

/-- Settles O39. -/
theorem conversionIndicesInRange : Obligations.ConversionIndicesInRange := fun fmt =>
  ⟨fun _ hmin hmax => romIndex_in_range hmin hmax, decimalScale_ends fmt⟩

/-- The scaled value of the binary exponent lies in `[1, 10)` (R212). -/
theorem scaled_exponent_bounds (e : Int) :
    (1 : ℚ) ≤ 2 ^ e * 10 ^ (-decimalScale e) ∧ (2 : ℚ) ^ e * 10 ^ (-decimalScale e) < 10 := by
  have lo := ten_pow_floorLog10Pow2_le e
  have hi := lt_ten_pow_floorLog10Pow2 e
  rw [← decimalScale_eq] at lo hi
  rw [zpow_neg, ← div_eq_mul_inv, le_div_iff₀ (pow10_pos _), div_lt_iff₀ (pow10_pos _)]
  rw [zpow_add₀ (by norm_num), zpow_one] at hi
  exact ⟨by linarith, by linarith⟩

/-- BETA fixes the binary magnitude of the scaled exponent (R213). -/
theorem betaOf_magnitude (e : Int) : (2 : ℚ) ^ (betaOf e - 1) ≤ 2 ^ e * 10 ^ (-decimalScale e) ∧
    (2 : ℚ) ^ e * 10 ^ (-decimalScale e) < 2 ^ betaOf e := by
  have lower_exponent : betaOf e - 1 = e + floorLog2Pow10 (-decimalScale e) := by rw [betaOf]; ring
  have upper_exponent : betaOf e = e + (floorLog2Pow10 (-decimalScale e) + 1) := by rw [betaOf]; ring
  constructor
  · rw [lower_exponent, zpow_add₀ (by norm_num)]
    exact mul_le_mul_of_nonneg_left (two_pow_floorLog2Pow10_le _) (by positivity)
  · rw [upper_exponent, zpow_add₀ (by norm_num)]
    exact mul_lt_mul_of_pos_left (lt_two_pow_floorLog2Pow10 _) (by positivity)

/-- A power of two in `[1, 10)` bounds BETA (R213). -/
theorem betaOf_bounds (e : Int) : alpha ≤ betaOf e ∧ betaOf e ≤ gamma := by
  obtain ⟨one_le, lt_ten⟩ := scaled_exponent_bounds e
  obtain ⟨magnitude_lo, magnitude_hi⟩ := betaOf_magnitude e
  have positive : (2 : ℚ) ^ (0 : Int) < 2 ^ betaOf e := by
    rw [zpow_zero]
    exact one_le.trans_lt magnitude_hi
  have small : (2 : ℚ) ^ (betaOf e - 1) < 2 ^ (4 : Int) := (magnitude_lo.trans_lt lt_ten).trans (by norm_num)
  have positive' := (zpow_lt_zpow_iff_right₀ (by norm_num : (1 : ℚ) < 2)).1 positive
  have small' := (zpow_lt_zpow_iff_right₀ (by norm_num : (1 : ℚ) < 2)).1 small
  rw [alpha, gamma]
  omega

/-- DELTA is the scaled exponent, or three quarters of it at an edge (R215). -/
theorem scaledWidth_eq (e k0 : Int) (edge : Bool) :
    scaledWidth e k0 edge = (if edge then 3 / 4 else 1) * (2 ^ e * 10 ^ (-k0)) := by
  cases edge with
  | false => simp [scaledWidth]
  | true =>
    rw [scaledWidth, if_pos rfl, if_pos rfl, zpow_sub₀ (by norm_num)]
    norm_num
    ring

/-- DELTA lies in `[3/4, 10)` (R215). -/
theorem scaledWidth_bounds (e : Int) (edge : Bool) :
    3 / 4 ≤ scaledWidth e (decimalScale e) edge ∧ scaledWidth e (decimalScale e) edge < 10 := by
  obtain ⟨one_le, lt_ten⟩ := scaled_exponent_bounds e
  rw [scaledWidth_eq]
  cases edge with
  | false => simp only [Bool.false_eq_true, if_false]; constructor <;> linarith
  | true => simp only [if_true]; constructor <;> linarith

/-- Settles O40. -/
theorem scaleBounds : Obligations.ScaleBounds := by
  intro e
  obtain ⟨one_le, lt_ten⟩ := scaled_exponent_bounds e
  obtain ⟨beta_lo, beta_hi⟩ := betaOf_bounds e
  obtain ⟨magnitude_lo, magnitude_hi⟩ := betaOf_magnitude e
  exact ⟨one_le, lt_ten, beta_lo, beta_hi, magnitude_lo, magnitude_hi, scaledWidth_bounds e⟩

end Sys2Proof.Machine
end

section
/-! PROOFS. What a bit pattern means (46_convert.md section 1, 45_policy.md): the fields of a pattern in the bounds of its
format, the class and the edge flag by the fields, and the packed words of CLASSIFY and POLICY (R295, R315). -/

namespace Sys2Proof.Machine

open Sys2Proof

/-! ## The fields -/

theorem expFieldOf_lt (fmt : Fmt) (b : Word) : expFieldOf fmt b < 2 ^ fmt.expWidth := Nat.mod_lt _ (by positivity)

theorem mantissaOf_lt (fmt : Fmt) (b : Word) : mantissaOf fmt b < 2 ^ fmt.precision := Nat.mod_lt _ (by positivity)

theorem expFieldOf_eq (fmt : Fmt) (b : Word) : expFieldOf fmt b = (b.extractLsb' fmt.precision fmt.expWidth).toNat := by
  rw [BitVec.extractLsb'_toNat, Nat.shiftRight_eq_div_pow, expFieldOf]

theorem mantissaOf_eq (fmt : Fmt) (b : Word) : mantissaOf fmt b = (b.extractLsb' 0 fmt.precision).toNat := by
  rw [BitVec.extractLsb'_toNat, Nat.shiftRight_zero, mantissaOf]

/-- The significand has XP bits (R302). -/
theorem significandOf_lt {fmt : Fmt} {m : Nat} (hm : m < 2 ^ fmt.precision) (eb : Nat) :
    significandOf fmt eb m < 2 ^ fmt.extPrecision := by
  rw [significandOf, Fmt.extPrecision, pow_succ]
  split <;> omega

/-- No bit of the significand is lost in its register (R302). -/
theorem classifyPattern_f (fmt : Fmt) (b : Word) :
    (classifyPattern fmt b).f.toNat = significandOf fmt (expFieldOf fmt b) (mantissaOf fmt b) := by
  have narrow := significandOf_lt (mantissaOf_lt fmt b) (expFieldOf fmt b)
  have width : 2 ^ fmt.extPrecision ≤ 2 ^ 53 := Nat.pow_le_pow_right (by norm_num) (by cases fmt <;> decide)
  exact (BitVec.toNat_ofNat ..).trans (Nat.mod_eq_of_lt (narrow.trans_le width))

/-- No bit of the exponent field is lost in its register (R300). -/
theorem classifyPattern_ebf (fmt : Fmt) (b : Word) : (classifyPattern fmt b).ebf.toNat = expFieldOf fmt b := by
  have narrow := expFieldOf_lt fmt b
  have width : 2 ^ fmt.expWidth ≤ 2 ^ 11 := Nat.pow_le_pow_right (by norm_num) (by cases fmt <;> decide)
  exact (BitVec.toNat_ofNat ..).trans (Nat.mod_eq_of_lt (narrow.trans_le width))

theorem classOf_normal_iff {fmt : Fmt} {eb m : Nat} :
    classOf fmt eb m = .normal ↔ eb ≠ 0 ∧ eb ≠ 2 ^ fmt.expWidth - 1 := by
  unfold classOf
  split_ifs <;> simp_all

theorem classOf_subnormal_iff {fmt : Fmt} {eb m : Nat} : classOf fmt eb m = .subnormal ↔ eb = 0 ∧ m ≠ 0 := by
  unfold classOf
  split_ifs <;> simp_all

theorem finiteNonzero_iff {c : FpClass} : c.finiteNonzero = true ↔ c = .normal ∨ c = .subnormal := by
  cases c <;> simp [FpClass.finiteNonzero]

/-- The exponent of a pattern by its exponent field (R302). -/
theorem exponentOf_cases (fmt : Fmt) (eb : Nat) :
    (eb = 0 ∧ exponentOf fmt eb = fmt.eMin) ∨ (1 ≤ eb ∧ exponentOf fmt eb = fmt.eMin + (eb - 1)) := by
  rcases Nat.eq_zero_or_pos eb with h | h
  · exact .inl ⟨h, by rw [exponentOf, if_pos h, Fmt.eMin]⟩
  · refine .inr ⟨h, ?_⟩
    rw [exponentOf, if_neg (by omega), Fmt.eMin]
    ring

/-- `EMAXF` is the exponent of the largest exponent field of a finite value (R304). -/
theorem eMaxF_eq (fmt : Fmt) : fmt.eMaxF + 3 = fmt.eMin + (2 ^ fmt.expWidth : Nat) := by
  cases fmt <;> decide

/-- The exponent of any pattern (R304). -/
theorem classifyPattern_e_bounds (fmt : Fmt) (b : Word) :
    fmt.eMin ≤ (classifyPattern fmt b).e ∧ (classifyPattern fmt b).e ≤ fmt.eMaxF + 1 := by
  change fmt.eMin ≤ exponentOf fmt (expFieldOf fmt b) ∧ exponentOf fmt (expFieldOf fmt b) ≤ fmt.eMaxF + 1
  have field := expFieldOf_lt fmt b
  have largest := eMaxF_eq fmt
  have two : 2 ≤ 2 ^ fmt.expWidth := by cases fmt <;> decide
  rcases exponentOf_cases fmt (expFieldOf fmt b) with ⟨-, h⟩ | ⟨_, h⟩ <;> rw [h] <;> omega

/-- The significand and the exponent of a normal pattern (R302, R304). -/
theorem classifyPattern_normal {fmt : Fmt} {b : Word} (h : (classifyPattern fmt b).cls = .normal) :
    2 ^ fmt.precision ≤ (classifyPattern fmt b).f.toNat ∧ (classifyPattern fmt b).e ≤ fmt.eMaxF := by
  obtain ⟨nonzero, not_ones⟩ := classOf_normal_iff.1 h
  constructor
  · rw [classifyPattern_f, significandOf, if_neg nonzero]
    omega
  · change exponentOf fmt (expFieldOf fmt b) ≤ fmt.eMaxF
    have field := expFieldOf_lt fmt b
    have largest := eMaxF_eq fmt
    rcases exponentOf_cases fmt (expFieldOf fmt b) with ⟨hz, -⟩ | ⟨-, h⟩
    · exact absurd hz nonzero
    · rw [h]
      omega

/-- The significand and the exponent of a subnormal pattern (R302, R304). -/
theorem classifyPattern_subnormal {fmt : Fmt} {b : Word} (h : (classifyPattern fmt b).cls = .subnormal) :
    1 ≤ (classifyPattern fmt b).f.toNat ∧ (classifyPattern fmt b).f.toNat < 2 ^ fmt.precision ∧
      (classifyPattern fmt b).e = fmt.eMin := by
  obtain ⟨zero, mantissa⟩ := classOf_subnormal_iff.1 h
  have significand : (classifyPattern fmt b).f.toNat = mantissaOf fmt b := by
    rw [classifyPattern_f, significandOf, if_pos zero]
  have exponent : (classifyPattern fmt b).e = fmt.eMin := by
    change exponentOf fmt (expFieldOf fmt b) = fmt.eMin
    rcases exponentOf_cases fmt (expFieldOf fmt b) with ⟨-, h⟩ | ⟨h, -⟩
    · exact h
    · omega
  exact ⟨by omega, significand ▸ mantissaOf_lt fmt b, exponent⟩

/-- A finite nonzero pattern has a nonzero significand and an exponent in `[EMIN, EMAXF]` (R304). -/
theorem classifyPattern_finite {fmt : Fmt} {b : Word} (h : (classifyPattern fmt b).cls.finiteNonzero = true) :
    1 ≤ (classifyPattern fmt b).f.toNat ∧ (classifyPattern fmt b).e ≤ fmt.eMaxF := by
  rcases finiteNonzero_iff.1 h with hn | hs
  · obtain ⟨significand, exponent⟩ := classifyPattern_normal hn
    exact ⟨(Nat.one_le_two_pow).trans significand, exponent⟩
  · obtain ⟨significand, -, exponent⟩ := classifyPattern_subnormal hs
    exact ⟨significand, by rw [exponent]; cases fmt <;> decide⟩

/-- An edge case has the least significand of its binade, and a binade below it (R303, R305). -/
theorem classifyPattern_edge {fmt : Fmt} {b : Word} (h : (classifyPattern fmt b).edge = true) :
    (classifyPattern fmt b).f.toNat = 2 ^ fmt.precision ∧ fmt.eMin < (classifyPattern fmt b).e := by
  have fields : mantissaOf fmt b = 0 ∧ 1 < expFieldOf fmt b := by
    simpa [classifyPattern, edgeOf] using h
  obtain ⟨mantissa, above⟩ := fields
  constructor
  · rw [classifyPattern_f, significandOf, if_neg (by omega), mantissa, zero_add]
  · change fmt.eMin < exponentOf fmt (expFieldOf fmt b)
    rcases exponentOf_cases fmt (expFieldOf fmt b) with ⟨hz, -⟩ | ⟨-, h⟩
    · omega
    · rw [h]
      omega

/-- The significand of any pattern has XP bits (R302). -/
theorem classifyPattern_f_lt (fmt : Fmt) (b : Word) : (classifyPattern fmt b).f.toNat < 2 ^ fmt.extPrecision := by
  rw [classifyPattern_f]
  exact significandOf_lt (mantissaOf_lt fmt b) _

/-- Settles O50. -/
theorem classificationBounds : Obligations.ClassificationBounds := by
  rintro fmt b _ - rfl
  obtain ⟨exponent_lo, exponent_hi⟩ := classifyPattern_e_bounds fmt b
  refine ⟨classifyPattern_f_lt fmt b, exponent_lo, exponent_hi, classifyPattern_finite,
    fun h => (classifyPattern_normal h).1, fun h => ?_, classifyPattern_edge⟩
  obtain ⟨-, significand, exponent⟩ := classifyPattern_subnormal h
  exact ⟨significand, exponent⟩

/-! ## CLASSIFY (R315) -/

/-- Where each bit of the class word comes from (R315). -/
theorem getLsbD_classWord (c : Classified) (i : Nat) :
    (classWord c).getLsbD i = if i < 1 then (BitVec.ofBool c.sgn).getLsbD i
      else if i < 2 then (BitVec.ofBool c.edge).getLsbD (i - 1) else if i < 5 then c.cls.bits.getLsbD (i - 2)
      else if i < 16 then false else c.ebf.getLsbD (i - 16) := by
  have append : (classWord c).getLsbD i = (((0 : BitVec 37) ++ c.ebf ++ (0 : BitVec 11) ++ c.cls.bits ++
    BitVec.ofBool c.edge) ++ BitVec.ofBool c.sgn).getLsbD i := rfl
  rw [append]
  grind

theorem classWord_cls (c : Classified) : (classWord c).extractLsb' 2 3 = c.cls.bits := by
  ext i hi
  rw [BitVec.getElem_extractLsb', getLsbD_classWord]
  grind

theorem classWord_reserved (c : Classified) :
    (classWord c).extractLsb' 5 11 = 0 ∧ (classWord c).extractLsb' 32 32 = 0 := by
  constructor <;> ext i hi <;> rw [BitVec.getElem_extractLsb', getLsbD_classWord] <;> grind

theorem classWord_ebf (c : Classified) : ((classWord c).extractLsb' 16 16).toNat = c.ebf.toNat := by
  have bits : (classWord c).extractLsb' 16 16 = c.ebf.setWidth 16 := by
    ext i hi
    rw [BitVec.getElem_extractLsb', getLsbD_classWord]
    grind
  rw [bits, BitVec.toNat_setWidth, Nat.mod_eq_of_lt (c.ebf.isLt.trans (by norm_num))]

/-- The class codes of R301 by the fields. -/
theorem classOf_bits (fmt : Fmt) (eb m : Nat) :
    (classOf fmt eb m).bits.toNat = if eb = 0 then (if m = 0 then 0 else 1)
      else if eb = 2 ^ fmt.expWidth - 1 then (if m = 0 then 3 else 4) else 2 := by
  unfold classOf
  split_ifs <;> rfl

/-- Settles O49: the registers lose no bit of the fields, and the class word keeps each at its bits. -/
theorem classifyReport : Obligations.ClassifyReport := by
  rintro fmt rmode cpol s _ _ _ rfl hfits rfl rfl
  obtain ⟨exponent_lo, exponent_hi⟩ := classifyPattern_e_bounds fmt s.latched.la.val
  have word : -2 ^ 63 ≤ fmt.eMin ∧ fmt.eMaxF + 1 < 2 ^ 63 := by cases fmt <;> decide
  have checks : firstFault [(!patternFits fmt s.latched.la.val, .badOperand)] = none := by simp [hfits]
  refine ⟨_, _, _, _, (exec_classify ..).trans (checked_pass checks), completes_complete _ _ _ s, ?_⟩
  rw [← expFieldOf_eq, ← mantissaOf_eq, toInt_tc64 (by omega) (by omega), classWord_cls, classWord_ebf, classifyPattern_ebf,
    (classWord_reserved _).1, (classWord_reserved _).2, getLsbD_classWord, getLsbD_classWord, BitVec.toNat_ofNat,
    Nat.mod_eq_of_lt ((BitVec.isLt _).trans (by norm_num)), classifyPattern_f]
  refine ⟨rfl, ?_, ?_, ?_, classOf_bits .., rfl, rfl, rfl⟩
  · change exponentOf fmt _ = _
    rw [exponentOf]
    split_ifs <;> rfl
  · simp [classifyPattern, signOf]
  · simp [classifyPattern, edgeOf]

/-! ## POLICY (R295) -/

/-- POLICY's word by its two bits (R295). -/
theorem policyWord_toNat (cl cr : Bool) :
    (policyWord cl cr).toNat = (if cl then 1 else 0) + 2 * (if cr then 1 else 0) := by
  cases cl <;> cases cr <;> rfl

/-- The significand is even exactly where the pattern's low bit is 0 (R290). -/
theorem significandOf_even (fmt : Fmt) (b : Word) :
    significandOf fmt (expFieldOf fmt b) (mantissaOf fmt b) % 2 = 0 ↔ b.getLsbD 0 = false := by
  have low_bit : b.getLsbD 0 = decide (b.toNat % 2 = 1) := by rw [BitVec.getLsbD, Nat.testBit_zero]
  have implicit_bit : 2 ^ fmt.precision % 2 = 0 := by cases fmt <;> decide
  have mantissa : mantissaOf fmt b % 2 = b.toNat % 2 := by
    rw [mantissaOf, Nat.mod_mod_of_dvd]
    exact Nat.dvd_of_mod_eq_zero implicit_bit
  rw [low_bit, decide_eq_false_iff_not, significandOf]
  split <;> omega

/-- A mode that is not reserved has a policy (R290). -/
theorem policyOf_exists {rmode : RMode} (hmode : rmode.isReserved = false) (sgn : Bool) (f : Nat) :
    ∃ cl cr, policyOf rmode sgn f = some (cl, cr) := by
  cases h : policyOf rmode sgn f with
  | none => simp [policyOf_eq_none.1 h] at hmode
  | some p => exact ⟨p.1, p.2, rfl⟩

theorem policyGoesOn_of_some {fmt : Fmt} {rmode : RMode} {s : State} {cl cr : Bool}
    (h : policyOf rmode (signOf fmt s.latched.la.val)
      (significandOf fmt (expFieldOf fmt s.latched.la.val) (mantissaOf fmt s.latched.la.val)) = some (cl, cr)) :
    policyGoesOn fmt rmode s = .next (complete (policyWord cl cr) 0 0 s) := by
  simp [policyGoesOn, h]

/-- The table of R290 by the pattern's sign and low bit. -/
theorem policyOf_table {fmt : Fmt} {rmode : RMode} {b : Word} {cl cr : Bool}
    (h : policyOf rmode (signOf fmt b) (significandOf fmt (expFieldOf fmt b) (mantissaOf fmt b)) = some (cl, cr)) :
    (rmode = .rne → ((cl = true ↔ b.getLsbD 0 = false) ∧ (cr = true ↔ b.getLsbD 0 = false))) ∧
      (rmode = .rtz → cl = false ∧ cr = true) ∧
      (rmode = .rdn → cl = b.getLsbD (fmt.width - 1) ∧ cr = !b.getLsbD (fmt.width - 1)) ∧
      (rmode = .rup → cl = !b.getLsbD (fmt.width - 1) ∧ cr = b.getLsbD (fmt.width - 1)) ∧
      (rmode = .fast → cl = true ∧ cr = true) := by
  have even := significandOf_even fmt b
  rw [signOf] at h
  cases hs : b.getLsbD (fmt.width - 1) <;> cases rmode <;> simp_all [policyOf] <;> grind

/-- Settles O48. -/
theorem policyFlags : Obligations.PolicyFlags := by
  rintro fmt rmode cpol s _ rfl hmode hfits
  obtain ⟨cl, cr, hpolicy⟩ := policyOf_exists hmode (signOf fmt s.latched.la.val)
    (significandOf fmt (expFieldOf fmt s.latched.la.val) (mantissaOf fmt s.latched.la.val))
  exact ⟨_, _, cl, cr, ((exec_policy ..).trans (checked_pass (policyChecks_pass hmode hfits))).trans
    (policyGoesOn_of_some hpolicy), completes_complete _ _ _ s, policyWord_toNat cl cr, policyOf_table hpolicy⟩

end Sys2Proof.Machine
end

section
/-! PROOFS. The comparator (43_comparator.md, 44_digit_search.md R255 and R256): the split comparison with its memoised
tie-break is the exact one, acceptance is monotone and decided inside the kappa range, and the exact-integer test. -/

namespace Sys2Proof.Machine

open Sys2Proof

/-! ## Candidate and remainder (R216) -/

/-- With fewer digits removed the remainder does not grow, and the candidate keeps at least the digits it had (R256). -/
theorem candidate_remainder_anti (z : ℚ) {kappa kappa' : Int} (h : kappa' ≤ kappa) :
    candidate z kappa * 10 ^ (kappa - kappa').toNat ≤ candidate z kappa' ∧ remainder z kappa' ≤ remainder z kappa := by
  have shift : ((candidate z kappa * 10 ^ (kappa - kappa').toNat : Int) : ℚ) * 10 ^ kappa' =
      candidate z kappa * 10 ^ kappa := by
    push_cast
    rw [mul_assoc, ← zpow_natCast, Int.toNat_of_nonneg (by omega), ← zpow_add₀ (by norm_num), sub_add_cancel]
  have whole := candidate_add_remainder z kappa
  have nonneg := remainder_nonneg z kappa
  have more : candidate z kappa * 10 ^ (kappa - kappa').toNat ≤ candidate z kappa' :=
    (le_candidate_iff z kappa' _).2 (by rw [shift]; linarith)
  refine ⟨more, ?_⟩
  have more_scaled := mul_le_mul_of_nonneg_right (Int.cast_le (R := ℚ).2 more) (pow10_pos kappa').le
  have whole' := candidate_add_remainder z kappa'
  rw [shift] at more_scaled
  linarith

/-- Settles O42. -/
theorem acceptanceMonotone : Obligations.AcceptanceMonotone := by
  rintro z delta cl kappa kappa' h ⟨positive, small⟩
  obtain ⟨more, less⟩ := candidate_remainder_anti z h
  have scale : (1 : Int) ≤ 10 ^ (kappa - kappa').toNat := one_le_pow₀ (by norm_num)
  refine ⟨le_trans (by nlinarith) more, ?_⟩
  rcases small with hlt | ⟨heq, hcl⟩
  · exact .inl (less.trans_lt hlt)
  · rcases less.lt_or_eq with hlt | hsame
    · exact .inl (heq ▸ hlt)
    · exact .inr ⟨hsame.trans heq, hcl⟩

/-- For a digit count that is not negative the remainder is an integer part and the fraction of `Z` (R220). -/
theorem remainder_eq_mod_add_fract (z : ℚ) (k : Nat) :
    remainder z k = ((⌊z⌋ % 10 ^ k : Int) : ℚ) + Int.fract z := by
  have digits : candidate z k = ⌊z⌋ / 10 ^ k := by
    have := Int.floor_div_natCast z (10 ^ k)
    rw [candidate, zpow_natCast]
    exact_mod_cast this
  have division : ((⌊z⌋ % 10 ^ k : Int) : ℚ) = ⌊z⌋ - (⌊z⌋ / 10 ^ k : Int) * 10 ^ k := by
    have := Int.emod_add_mul_ediv ⌊z⌋ (10 ^ k)
    have cast := congrArg (Int.cast : Int → ℚ) this
    push_cast at cast ⊢
    linarith
  have parts := Int.floor_add_fract z
  rw [remainder, digits, division, zpow_natCast]
  linarith

/-! ## The split comparison (R217, R220) -/

theorem exactCmp_eq_lt {z delta : ℚ} {kappa : Int} (h : remainder z kappa < delta) : exactCmp z delta kappa = .lt :=
  if_pos h

theorem exactCmp_eq_gt {z delta : ℚ} {kappa : Int} (h : delta < remainder z kappa) : exactCmp z delta kappa = .gt := by
  rw [exactCmp, if_neg (not_lt.2 h.le), if_neg h.ne']

/-- A verdict from scratch compares the fractions (R220). -/
theorem freshVerdict_cmp (z delta : ℚ) : (freshVerdict z delta).cmp =
    if Int.fract z < Int.fract delta then .lt else if Int.fract z = Int.fract delta then .eq else .gt := by
  unfold freshVerdict isZ2SameAsDelta2
  simp only [decide_eq_true_eq]
  rcases lt_trichotomy (Int.fract z) (Int.fract delta) with h | h | h
  · rw [if_neg h.ne, if_neg (not_lt.2 h.le), if_pos h]
    rfl
  · rw [if_pos h, if_neg (not_lt.2 h.ge), if_pos h]
    rfl
  · rw [if_neg h.ne', if_pos h, if_neg (not_lt.2 h.le), if_neg h.ne']
    rfl

/-- Consulting a true verdict gives the one from scratch (R221). -/
theorem memoVerdict_of_consistent {z delta : ℚ} {memo : Memo} (h : memoConsistent z delta memo) :
    memoVerdict z delta memo = freshVerdict z delta := by
  rcases h with rfl | rfl
  · rfl
  · exact memoVerdict_idempotent z delta .notCompared

/-- A comparison keeps `MEMO` a true verdict (R221). -/
theorem compareAt_consistent {z delta : ℚ} {memo : Memo} (h : memoConsistent z delta memo) (kappa : Int) :
    memoConsistent z delta (compareAt z delta memo kappa).2 := by
  rcases compareAt_memo z delta memo kappa with hkept | hverdict
  · rwa [hkept]
  · exact .inr (hverdict.trans (memoVerdict_of_consistent h))

/-- Below `kappa = 0` the remainder is less than `DELTA` (R220). -/
theorem remainder_lt_of_neg {z delta : ℚ} {kappa : Int} (hdelta : 3 / 4 ≤ delta) (hkappa : kappa < 0) :
    remainder z kappa < delta := by
  have small : (10 : ℚ) ^ kappa ≤ 10 ^ (-1 : Int) := zpow_le_zpow_right₀ (by norm_num) (by omega)
  have := remainder_lt z kappa
  norm_num at small
  linarith

/-- The comparison of `A` with `D`, and of the fractions where they tie, is the comparison of the remainder with `DELTA`
(R217, R220). -/
theorem compareAt_exact {z delta : ℚ} {memo : Memo} (kappa : Int) (hdelta : 3 / 4 ≤ delta)
    (hmemo : memoConsistent z delta memo) : (compareAt z delta memo kappa).1 = exactCmp z delta kappa := by
  by_cases hneg : kappa < 0
  · rw [exactCmp_eq_lt (remainder_lt_of_neg hdelta hneg), compareAt, if_pos hneg]
  · lift kappa to Nat using by omega
    have parts := remainder_eq_mod_add_fract z kappa
    have delta_parts := Int.floor_add_fract delta
    have z_nonneg := Int.fract_nonneg z
    have z_small := Int.fract_lt_one z
    have delta_nonneg := Int.fract_nonneg delta
    have delta_small := Int.fract_lt_one delta
    simp only [compareAt, if_neg hneg, Int.toNat_natCast]
    rcases lt_trichotomy (⌊z⌋ % 10 ^ kappa) ⌊delta⌋ with h | h | h
    · have cast : ((⌊z⌋ % 10 ^ kappa : Int) : ℚ) + 1 ≤ ⌊delta⌋ := by exact_mod_cast h
      rw [if_pos h, exactCmp_eq_lt (by linarith)]
    · rw [if_neg (not_lt.2 h.ge), if_neg (not_lt.2 h.le)]
      have shift : remainder z kappa = ⌊delta⌋ + Int.fract z := by rw [parts, h]
      have lt_iff : remainder z kappa < delta ↔ Int.fract z < Int.fract delta := by
        constructor <;> intro h <;> linarith
      have eq_iff : remainder z kappa = delta ↔ Int.fract z = Int.fract delta := by
        constructor <;> intro h <;> linarith
      simp only [memoVerdict_of_consistent hmemo, freshVerdict_cmp, exactCmp, lt_iff, eq_iff]
    · have cast : ((⌊delta⌋ : Int) : ℚ) + 1 ≤ (⌊z⌋ % 10 ^ kappa : Int) := by exact_mod_cast h
      rw [if_neg (not_lt.2 h.le), if_pos h, exactCmp_eq_gt (by linarith)]

/-- Settles O41. -/
theorem compareIsExact : Obligations.CompareIsExact := fun _ _ _ kappa hdelta hmemo =>
  ⟨compareAt_exact kappa hdelta hmemo, compareAt_consistent hmemo kappa⟩

/-- Acceptance by the exact comparison is the exact acceptance (R217). -/
theorem acceptOf_exactCmp (z delta : ℚ) (cl : Bool) (kappa : Int) :
    acceptOf z cl kappa (exactCmp z delta kappa) = true ↔ exactAccept z delta cl kappa := by
  have outcome_lt : exactCmp z delta kappa = .lt ↔ remainder z kappa < delta := by
    unfold exactCmp
    split_ifs <;> simp_all
  have outcome_eq : exactCmp z delta kappa = .eq ↔ remainder z kappa = delta := by
    unfold exactCmp
    split_ifs with hlt heq
    · simp [hlt.ne]
    · simp [heq]
    · simp [heq]
  simp [acceptOf, exactAccept, outcome_lt, outcome_eq]

/-- Acceptance inside a step is the exact acceptance, and keeps `MEMO` a true verdict (R217, R220). -/
theorem acceptAt_exact {z delta : ℚ} {memo : Memo} (cl : Bool) (kappa : Int) (hdelta : 3 / 4 ≤ delta)
    (hmemo : memoConsistent z delta memo) :
    ((acceptAt z delta cl memo kappa).1 = true ↔ exactAccept z delta cl kappa) ∧
      memoConsistent z delta (acceptAt z delta cl memo kappa).2 := by
  refine ⟨?_, compareAt_consistent hmemo kappa⟩
  rw [acceptAt, compareAt_exact kappa hdelta hmemo]
  exact acceptOf_exactCmp z delta cl kappa

/-! ## The kappa range (R255) -/

/-- `Z` is the scaled exponent times the middle of the significand and the next (R214). -/
theorem scaledUpper_eq (f : Nat) (e k0 : Int) :
    scaledUpper f e k0 = ((f : ℚ) + 1 / 2) * (2 ^ e * 10 ^ (-k0)) := by
  rw [scaledUpper, zpow_sub₀ (by norm_num)]
  ring

/-- `Z` is at least `3/2` and less than ten times `2^XP` (R255). -/
theorem scaledUpper_bounds {fmt : Fmt} {f : Nat} (hf : 1 ≤ f) (hf' : f < 2 ^ fmt.extPrecision) (e : Int) :
    3 / 2 ≤ scaledUpper f e (decimalScale e) ∧ scaledUpper f e (decimalScale e) < 10 * 2 ^ fmt.extPrecision := by
  obtain ⟨one_le, lt_ten⟩ := scaled_exponent_bounds e
  have low : (1 : ℚ) ≤ f := by exact_mod_cast hf
  have high : (f : ℚ) + 1 ≤ 2 ^ fmt.extPrecision := by exact_mod_cast hf'
  rw [scaledUpper_eq]
  constructor <;> nlinarith

/-- `Z` has at most KMAX + 1 digits before its point (R255). -/
theorem scaledUpper_lt_kMax {fmt : Fmt} {f : Nat} (hf : 1 ≤ f) (hf' : f < 2 ^ fmt.extPrecision) (e : Int) :
    scaledUpper f e (decimalScale e) < 10 ^ (fmt.kMax + 1) := by
  refine (scaledUpper_bounds hf hf' e).2.trans ?_
  cases fmt <;> norm_num [Fmt.extPrecision, Fmt.precision, Fmt.kMax]

/-- An accepted kappa has a power of ten of at most `Z` (R255). -/
theorem pow10_le_of_accept {z delta : ℚ} {cl : Bool} {kappa : Int} (h : exactAccept z delta cl kappa) :
    (10 : ℚ) ^ kappa ≤ z := by
  simpa using (le_candidate_iff z kappa 1).1 h.1

/-- `KMIN` is accepted (R255). -/
theorem accept_kMin {z delta : ℚ} (hz : 3 / 2 ≤ z) (hdelta : 3 / 4 ≤ delta) (cl : Bool) : exactAccept z delta cl kMin := by
  refine ⟨(le_candidate_iff z kMin 1).2 ?_, .inl (remainder_lt_of_neg hdelta (by decide))⟩
  norm_num [kMin]
  linarith

/-- Nothing above KMAX is accepted (R255). -/
theorem not_accept_above {z delta : ℚ} {cl : Bool} {k kappa : Int} (hz : z < 10 ^ (k + 1)) (hkappa : k < kappa) :
    ¬exactAccept z delta cl kappa := fun h =>
  absurd ((zpow_le_zpow_right₀ (by norm_num) (by omega : k + 1 ≤ kappa)).trans (pow10_le_of_accept h)) (not_le.2 hz)

/-- Settles O43. -/
theorem kappaRangeSuffices : Obligations.KappaRangeSuffices := by
  rintro fmt b cl - hfinite _ _ rfl rfl
  have significand := (classifyPattern_finite hfinite).1
  have narrow := classifyPattern_f_lt fmt b
  exact ⟨accept_kMin (scaledUpper_bounds significand narrow _).1 (scaledWidth_bounds _ _).1 cl,
    fun kappa hkappa => not_accept_above (scaledUpper_lt_kMax significand narrow _) hkappa⟩

/-! ## The exact-integer test (R230, R231, R236) -/

theorem two_pow_dvd_iff {n k : Nat} (hn : n ≠ 0) : 2 ^ k ∣ n ↔ k ≤ v2 n := by
  constructor
  · intro h
    by_contra hlt
    exact v2_greatest hn ((pow_dvd_pow 2 (by omega)).trans h)
  · exact fun h => (pow_dvd_pow 2 h).trans (v2_dvd n)

/-- The test by divisibility: the powers of 5 and 2 that are left in the denominator divide `f` (R230). -/
theorem isProductInteger_iff_dvd (f : Nat) (x m : Int) :
    isProductInteger f x m = true ↔ 2 ^ (m - x).toNat ∣ f ∧ 5 ^ m.toNat ∣ f := by
  rcases eq_or_ne f 0 with rfl | hf
  · simp [isProductInteger]
  have twos : 2 ^ (m - x).toNat ∣ f ↔ 0 ≤ (v2 f : Int) + x - m := by
    rw [two_pow_dvd_iff hf]
    omega
  by_cases hm : 0 ≤ m
  · simp [isProductInteger, hf, hm, pow5Divides_iff hf, twos, Nat.dvd_iff_mod_eq_zero, and_comm]
  · simp [isProductInteger, hf, hm, twos, show m.toNat = 0 by omega]

/-- A power with a signed exponent as a quotient of two powers with natural ones. -/
theorem zpow_eq_pow_div_pow {a : ℚ} (ha : a ≠ 0) (j : Int) : a ^ j = a ^ j.toNat / a ^ (-j).toNat := by
  rw [eq_div_iff (pow_ne_zero _ ha), ← zpow_natCast, ← zpow_natCast, ← zpow_add₀ ha]
  congr 1
  omega

/-- A quotient of natural numbers is an integer exactly where the divisor divides. -/
theorem natCast_div_isInt_iff {a b : Nat} (hb : b ≠ 0) : (∃ n : Int, (a : ℚ) / b = n) ↔ b ∣ a := by
  have hb' : (b : ℚ) ≠ 0 := by exact_mod_cast hb
  constructor
  · rintro ⟨n, hn⟩
    rw [div_eq_iff hb'] at hn
    exact Int.natCast_dvd_natCast.1 ⟨n, by rw [mul_comm]; exact_mod_cast hn⟩
  · rintro ⟨c, rfl⟩
    exact ⟨c, by rw [div_eq_iff hb']; push_cast; ring⟩

/-- The test decides whether `f * 2^x * 10^(-m)` is an integer (R230). -/
theorem isProductInteger_iff (f : Nat) (x m : Int) :
    isProductInteger f x m = true ↔ ∃ n : Int, (f : ℚ) * 2 ^ x * 10 ^ (-m) = n := by
  have quotient : (f : ℚ) * 2 ^ x * 10 ^ (-m) =
      ((f * 2 ^ (x - m).toNat * 5 ^ (-m).toNat : Nat) : ℚ) / (2 ^ (m - x).toNat * 5 ^ m.toNat : Nat) := by
    have two := zpow_eq_pow_div_pow (two_ne_zero (α := ℚ)) (x - m)
    have five := zpow_eq_pow_div_pow (by norm_num : (5 : ℚ) ≠ 0) (-m)
    rw [neg_sub] at two
    rw [neg_neg] at five
    push_cast
    rw [show (10 : ℚ) = 2 * 5 by norm_num, mul_zpow, mul_assoc (f : ℚ), ← mul_assoc ((2 : ℚ) ^ x), ← zpow_add₀ two_ne_zero,
      ← sub_eq_add_neg, two, five]
    ring
  have coprime (i j : Nat) : Nat.Coprime (2 ^ i) (5 ^ j) := Nat.Coprime.pow _ _ (by norm_num)
  have twos : 2 ^ (m - x).toNat ∣ f * 2 ^ (x - m).toNat * 5 ^ (-m).toNat ↔ 2 ^ (m - x).toNat ∣ f := by
    rw [(coprime _ _).dvd_mul_right]
    rcases le_total x m with h | h
    · simp [show (x - m).toNat = 0 by omega]
    · simp [show (m - x).toNat = 0 by omega]
  have fives : 5 ^ m.toNat ∣ f * 2 ^ (x - m).toNat * 5 ^ (-m).toNat ↔ 5 ^ m.toNat ∣ f := by
    rcases le_total 0 m with h | h
    · simp [show (-m).toNat = 0 by omega, (coprime (x - m).toNat m.toNat).symm.dvd_mul_right]
    · simp [show m.toNat = 0 by omega]
  rw [isProductInteger_iff_dvd, quotient, natCast_div_isInt_iff (by positivity), ← twos, ← fives]
  exact ⟨fun h => (coprime _ _).mul_dvd_of_dvd_of_dvd h.1 h.2,
    fun h => ⟨dvd_of_mul_right_dvd h, dvd_of_mul_left_dvd h⟩⟩

/-- `ZINT` says whether `Z` is an integer (R231). -/
theorem zInt_iff (f : Nat) (e k0 : Int) : zInt f e k0 = true ↔ ∃ n : Int, scaledUpper f e k0 = n := by
  rw [zInt, isProductInteger_iff, scaledUpper]
  push_cast
  rfl

/-- Where `Z` is an integer, `5^K0` divides the odd `2f + 1`, which bounds the scale (R236). -/
theorem decimalScale_le_mkMax {fmt : Fmt} {f : Nat} {e : Int} (hf : f < 2 ^ fmt.extPrecision)
    (hz : zInt f e (decimalScale e) = true) : decimalScale e ≤ fmt.mkMax := by
  have divides := ((isProductInteger_iff_dvd _ _ _).1 hz).2
  have small : 5 ^ (decimalScale e).toNat < 5 ^ (fmt.mkMax + 1) := by
    refine (Nat.le_of_dvd (by omega) divides).trans_lt ?_
    cases fmt <;> norm_num [Fmt.extPrecision, Fmt.precision, Fmt.mkMax] at hf ⊢ <;> omega
  have := (Nat.pow_lt_pow_iff_right (by norm_num)).1 small
  omega

/-- Settles O44. -/
theorem upperBoundaryIntegerTest : Obligations.UpperBoundaryIntegerTest :=
  ⟨fun f e => zInt_iff f e (decimalScale e), fun _ _ _ hf _ hz => decimalScale_le_mkMax hf hz⟩

theorem bitWord_eq_one_iff {b : Bool} : bitWord b = 1 ↔ b = true := by cases b <;> decide

theorem bitWord_cases (b : Bool) : bitWord b = 0 ∨ bitWord b = 1 := by cases b <;> decide

theorem exec_isprodint (fmt : Fmt) (rmode : RMode) (cpol : CasePolicy) (s : State) :
    exec (.isprodint fmt rmode cpol) s = .next (complete (bitWord (isProductInteger s.latched.la.val.toNat
      (sext64 s.latched.lb.val) (sext64 s.latched.lc.val))) 0 0 s) := rfl

/-- Settles O45. -/
theorem isprodintDecidesInteger : Obligations.IsprodintDecidesInteger := by
  rintro fmt rmode cpol s _ _ _ rfl rfl rfl
  exact ⟨_, _, exec_isprodint fmt rmode cpol s, completes_complete _ _ _ s, bitWord_cases _,
    bitWord_eq_one_iff.trans (isProductInteger_iff _ _ _)⟩

end Sys2Proof.Machine
end

section
/-! PROOFS. The scale step's values and IVCMP's report (43_comparator.md R240, 44_digit_search.md R260): the scale step succeeds
on every finite nonzero pattern with a defined mode, and the comparison word keeps each field at its bits. -/

namespace Sys2Proof.Machine

open Sys2Proof

/-! ## The scale step (R260) -/

/-- The values of the scale step for containment flags `cl` and `cr` (R212 to R215, R84). -/
def scaleValues (fmt : Fmt) (cl cr : Bool) (f : Nat) (e : Int) (edge : Bool) : ScaleValues :=
  ⟨cl, cr, decimalScale e, BitVec.ofInt 3 (betaOf e), romEntry fmt (-decimalScale e), scaledUpper f e (decimalScale e),
    scaledWidth e (decimalScale e) edge⟩

theorem scaleOf_eq_scaleValues {fmt : Fmt} {rmode : RMode} {sgn : Bool} {f : Nat} {e : Int} {cl cr : Bool}
    (hpolicy : policyOf rmode sgn f = some (cl, cr)) (hk : fmt.minK ≤ -decimalScale e ∧ -decimalScale e ≤ fmt.maxK)
    (edge : Bool) : scaleOf fmt rmode sgn f e edge = .ok (scaleValues fmt cl cr f e edge) := by
  have entry : memRead fmt (-decimalScale e) = some (romEntry fmt (-decimalScale e)) := memRead_eq_some.2 ⟨hk, rfl⟩
  simp only [scaleOf, hpolicy, entry]
  rfl

/-- The ROM index of a finite nonzero pattern is in range (R191). -/
theorem romIndex_of_finite {fmt : Fmt} {b : Word} (h : (classifyPattern fmt b).cls.finiteNonzero = true) :
    fmt.minK ≤ -decimalScale (classifyPattern fmt b).e ∧ -decimalScale (classifyPattern fmt b).e ≤ fmt.maxK :=
  romIndex_in_range (classifyPattern_e_bounds fmt b).1 (classifyPattern_finite h).2

/-- The scale of a finite nonzero pattern fits a word. -/
theorem decimalScale_word {fmt : Fmt} {b : Word} (h : (classifyPattern fmt b).cls.finiteNonzero = true) :
    -324 ≤ decimalScale (classifyPattern fmt b).e ∧ decimalScale (classifyPattern fmt b).e ≤ 292 := by
  have range := romIndex_of_finite h
  cases fmt <;> simp only [Fmt.minK, Fmt.maxK] at range <;> omega

/-! ## The comparison word (R240) -/

/-- Where each bit of the comparison word comes from (R240). -/
theorem getLsbD_compareWord (c : Cmp) (acc rZero edge cl cr : Bool) (beta : BitVec 3) (deltaFloor : Int) (zint : Bool)
    (memo : Memo) (i : Nat) : (compareWord c acc rZero edge cl cr beta deltaFloor zint memo).getLsbD i =
      if i < 2 then c.bits.getLsbD i else if i < 3 then (BitVec.ofBool acc).getLsbD (i - 2)
      else if i < 4 then (BitVec.ofBool rZero).getLsbD (i - 3) else if i < 5 then (BitVec.ofBool edge).getLsbD (i - 4)
      else if i < 6 then (BitVec.ofBool cl).getLsbD (i - 5) else if i < 7 then (BitVec.ofBool cr).getLsbD (i - 6)
      else if i < 8 then false else if i < 11 then beta.getLsbD (i - 8) else if i < 12 then false
      else if i < 16 then (BitVec.ofInt 4 deltaFloor).getLsbD (i - 12)
      else if i < 17 then (BitVec.ofBool zint).getLsbD (i - 16) else memo.bits.getLsbD (i - 17) := by
  have append : (compareWord c acc rZero edge cl cr beta deltaFloor zint memo).getLsbD i =
    ((0#45 ++ memo.bits ++ BitVec.ofBool zint ++ BitVec.ofInt 4 deltaFloor ++ 0#1 ++ beta ++
      0#1 ++ BitVec.ofBool cr ++ BitVec.ofBool cl ++ BitVec.ofBool edge ++ BitVec.ofBool rZero ++
      BitVec.ofBool acc) ++ c.bits).getLsbD i := rfl
  rw [append]
  simp only [BitVec.getLsbD_append, Nat.sub_sub]
  have field : i < 2 ∨ i = 2 ∨ i = 3 ∨ i = 4 ∨ i = 5 ∨ i = 6 ∨ i = 7 ∨ (8 ≤ i ∧ i < 11) ∨ i = 11 ∨ (12 ≤ i ∧ i < 16) ∨
    i = 16 ∨ (17 ≤ i ∧ i < 19) ∨ 19 ≤ i := by omega
  rcases field with h | h | h | h | h | h | h | h | h | h | h | h | h <;>
    simp (disch := omega) only [if_pos, if_neg, BitVec.getLsbD_zero, BitVec.getLsbD_of_ge]

/-- The fields of the comparison word that are wider than a bit (R240). -/
theorem compareWord_fields (c : Cmp) (acc rZero edge cl cr : Bool) (beta : BitVec 3) (deltaFloor : Int) (zint : Bool)
    (memo : Memo) : let w := compareWord c acc rZero edge cl cr beta deltaFloor zint memo
    w.extractLsb' 0 2 = c.bits ∧ w.extractLsb' 8 3 = beta ∧ w.extractLsb' 12 4 = BitVec.ofInt 4 deltaFloor ∧
      w.extractLsb' 17 2 = memo.bits ∧ w.extractLsb' 19 45 = 0 := by
  refine ⟨?_, ?_, ?_, ?_, ?_⟩ <;> ext i hi <;> rw [BitVec.getElem_extractLsb', getLsbD_compareWord] <;> grind

/-! ## IVCMP (R240) -/

theorem exec_ivcmp_finite {fmt : Fmt} {rmode : RMode} {s : State} {v : ScaleValues}
    (h : (classifyPattern fmt s.latched.la.val).cls.finiteNonzero = true)
    (hscale : scaleOf fmt rmode (classifyPattern fmt s.latched.la.val).sgn (classifyPattern fmt s.latched.la.val).f.toNat
      (classifyPattern fmt s.latched.la.val).e (classifyPattern fmt s.latched.la.val).edge = .ok v) :
    ivcmpGoesOn fmt rmode s = .next (compareAndComplete (classifyPattern fmt s.latched.la.val) v
      (sext64 s.latched.lb.val) (writeClass (classifyPattern fmt s.latched.la.val) s)) := by
  simp only [ivcmpGoesOn, h, if_true, hscale]

/-- The candidate at a kappa of the range fits a word (R58). -/
theorem candidate_word {z : ℚ} {kappa : Int} (hz : 3 / 2 ≤ z) (hz' : z < 10 ^ 17) (hkappa : -1 ≤ kappa) :
    0 ≤ candidate z kappa ∧ candidate z kappa < 2 ^ 60 := by
  have tenth : (10 : ℚ) ^ (-1 : Int) ≤ 10 ^ kappa := zpow_le_zpow_right₀ (by norm_num) hkappa
  constructor
  · exact (le_candidate_iff z kappa 0).2 (by simp; linarith)
  · by_contra h
    have := (le_candidate_iff z kappa (2 ^ 60)).1 (by omega)
    norm_num at this tenth
    nlinarith

/-- A word keeps an integer that fits it. -/
theorem toNat_ofInt_of_lt {n : Nat} {i : Int} (h0 : 0 ≤ i) (h : i < 2 ^ n) : ((BitVec.ofInt n i).toNat : Int) = i := by
  rw [BitVec.toNat_ofInt, Int.toNat_of_nonneg (Int.emod_nonneg _ (by positivity))]
  exact Int.emod_eq_of_lt h0 (by exact_mod_cast h)

/-- `MEMO` after a first comparison: the fractions' verdict where the integer parts tie (R220). -/
theorem compareAt_memo_fresh (z delta : ℚ) (kappa : Int) : (compareAt z delta .notCompared kappa).2 =
    (if 0 ≤ kappa ∧ ⌊z⌋ % 10 ^ kappa.toNat = ⌊delta⌋ then
      (if Int.fract delta < Int.fract z then .z2Larger
       else if Int.fract z < Int.fract delta then .z2Smaller else .z2Same)
    else .notCompared) := by
  have verdict : freshVerdict z delta = (if Int.fract delta < Int.fract z then .z2Larger
      else if Int.fract z < Int.fract delta then .z2Smaller else .z2Same) := by
    unfold freshVerdict isZ2SameAsDelta2
    simp only [decide_eq_true_eq]
    rcases lt_trichotomy (Int.fract z) (Int.fract delta) with h | h | h
    · simp [h, h.ne]
    · simp [h]
    · simp [h, h.ne']
  unfold compareAt
  rw [← verdict]
  by_cases hneg : kappa < 0
  · simp [hneg]
  · rcases lt_trichotomy (⌊z⌋ % 10 ^ kappa.toNat) ⌊delta⌋ with h | h | h
    · simp [hneg, h, h.ne]
    · simp [hneg, h, not_lt.1 hneg, memoVerdict]
    · simp [hneg, h.ne', h.not_gt, h]

/-- What IVCMP leaves where its checks pass and the pattern is finite and nonzero (R240). -/
theorem exec_ivcmp_report {fmt : Fmt} {rmode : RMode} {cpol : CasePolicy} {s : State} {c : Classified} {cl cr : Bool}
    (hc : c = classifyPattern fmt s.latched.la.val) (hmode : rmode.isReserved = false)
    (hfits : patternFits fmt s.latched.la.val = true) (hfinite : c.cls.finiteNonzero = true)
    (hmin : kMin ≤ s.latched.lb.val.toInt) (hmax : s.latched.lb.val.toInt ≤ fmt.kMax)
    (hpolicy : policyOf rmode c.sgn c.f.toNat = some (cl, cr)) :
    exec (.ivcmp fmt rmode cpol) s = .next (compareAndComplete c (scaleValues fmt cl cr c.f.toNat c.e c.edge)
      s.latched.lb.val.toInt (writeClass c s)) := by
  subst hc
  exact (exec_ivcmp_of_pass hmode hfits (.inr hfinite) hmin hmax).trans
    (exec_ivcmp_finite hfinite (scaleOf_eq_scaleValues hpolicy (romIndex_of_finite hfinite) _))

/-- The bank after IVCMP's completion (R47). -/
theorem bankCompleted_compareAndComplete (c c' : Classified) (v : ScaleValues) (kappa : Int) (s : State) :
    BankCompleted s (compareAndComplete c v kappa (writeClass c' s)) (BitVec.ofInt 64 (candidate v.z kappa)) (tc64 v.k0)
      (compareWord (compareAt v.z v.delta .notCompared kappa).1
        (acceptOf v.z v.cl kappa (compareAt v.z v.delta .notCompared kappa).1) (decide (remainder v.z kappa = 0)) c.edge v.cl
        v.cr v.beta ⌊v.delta⌋ (zInt c.f.toNat c.e v.k0) (compareAt v.z v.delta .notCompared kappa).2) := by
  constructor <;> rfl

/-- Settles O46: the checks pass, the scale step succeeds, the comparison is exact, and the word keeps each field. -/
theorem ivcmpReportsComparison : Obligations.IvcmpReportsComparison := by
  rintro fmt rmode cpol s _ _ c _ _ _ rfl rfl hmode hfits hc hfinite hmin hmax rfl rfl rfl
  obtain ⟨cl, cr, hpolicy⟩ := policyOf_exists hmode c.sgn c.f.toNat
  have hexec := exec_ivcmp_report (cpol := cpol) hc hmode hfits hfinite hmin hmax hpolicy
  have significand : 1 ≤ c.f.toNat := hc ▸ (classifyPattern_finite (hc ▸ hfinite)).1
  have narrow : c.f.toNat < 2 ^ fmt.extPrecision := hc ▸ classifyPattern_f_lt fmt _
  have scale_word : -324 ≤ decimalScale c.e ∧ decimalScale c.e ≤ 292 := hc ▸ decimalScale_word (hc ▸ hfinite)
  have z_lower := (scaledUpper_bounds significand narrow c.e).1
  have z_upper : scaledUpper c.f.toNat c.e (decimalScale c.e) < 10 ^ 17 := by
    refine (scaledUpper_bounds significand narrow c.e).2.trans_le ?_
    cases fmt <;> norm_num [Fmt.extPrecision, Fmt.precision]
  obtain ⟨candidate_lo, candidate_hi⟩ := candidate_word z_lower z_upper hmin
  obtain ⟨delta_lo, delta_hi⟩ := scaledWidth_bounds c.e c.edge
  obtain ⟨beta_lo, beta_hi⟩ := betaOf_bounds c.e
  rw [alpha] at beta_lo
  rw [gamma] at beta_hi
  have floor_lo : 0 ≤ ⌊scaledWidth c.e (decimalScale c.e) c.edge⌋ := Int.floor_nonneg.2 (by linarith)
  have floor_hi : ⌊scaledWidth c.e (decimalScale c.e) c.edge⌋ < 10 := Int.floor_lt.2 (by exact_mod_cast delta_hi)
  have outcome := compareAt_exact s.latched.lb.val.toInt delta_lo
    (.inl rfl : memoConsistent (scaledUpper c.f.toNat c.e (decimalScale c.e)) _ .notCompared)
  have memo := compareAt_memo_fresh (scaledUpper c.f.toNat c.e (decimalScale c.e))
    (scaledWidth c.e (decimalScale c.e) c.edge) s.latched.lb.val.toInt
  refine ⟨_, _, _, _, cl, cr, hexec, hpolicy, bankCompleted_compareAndComplete .., ?_⟩
  simp only [compareWord_fields, getLsbD_compareWord, scaleValues, outcome]
  refine ⟨toNat_ofInt_of_lt candidate_lo (candidate_hi.trans (by norm_num)), toInt_tc64 (by omega) (by omega), ?_, ?_, ?_,
    by simp, by simp, by simp, by simp, toNat_ofInt_of_lt (by omega) (by omega), by simp,
    toNat_ofInt_of_lt floor_lo (by omega), ?_, ?_, trivial, memo, rfl, rfl, rfl, rfl⟩
  · cases exactCmp (scaledUpper c.f.toNat c.e (decimalScale c.e)) (scaledWidth c.e (decimalScale c.e) c.edge)
      s.latched.lb.val.toInt <;> rfl
  · simpa using acceptOf_exactCmp _ _ cl _
  · rw [if_neg (by decide), if_neg (by decide), if_pos (by decide), Nat.sub_self, BitVec.getLsbD_ofBool]
    exact decide_eq_true_iff
  · simpa using zInt_iff c.f.toNat c.e (decimalScale c.e)
  · change (compareAt _ _ .notCompared _).2.bits.toNat = (match (compareAt _ _ .notCompared _).2 with
      | .notCompared => 0 | .z2Larger => 1 | .z2Smaller => 2 | .z2Same => 3)
    cases (compareAt (scaledUpper c.f.toNat c.e (decimalScale c.e)) (scaledWidth c.e (decimalScale c.e) c.edge)
      .notCompared s.latched.lb.val.toInt).2 <;> rfl

end Sys2Proof.Machine
end

section
/-! PROOFS. What a step can do (46_convert.md section 3, 70_reset_and_hazards.md): the EXEC step of every command as one of five
effects that its latched words decide, the inversion of a sequencer step and of a step of the system, and what follows from
them whatever the state: who writes the results, the latches and STATUS, and that the host does not disturb a running command. -/

namespace Sys2Proof.Machine

open Sys2Proof

/-! ## The effects of an EXEC step -/

/-- What an EXEC step does to the state. -/
inductive Effect where
  /-- `raise Fault(code)` (R346). -/
  | fault (code : FaultCode)
  /-- `complete(r0, r1, r2)` (R47). -/
  | complete (r0 r1 r2 : Word)
  /-- CONVERT goes on to CV_SCALE with this classification (R325). -/
  | classify (c : Classified)
  /-- A zero, infinity or NaN under IGNORE (R322). -/
  | draw (c : Classified)
  /-- IVCMP's comparison (R240). -/
  | compare (c : Classified) (v : ScaleValues) (kappa : Int)

/-- The state that an effect leaves. -/
def Effect.apply : Effect → State → State
  | .fault code, s => faultEntry code s.latched.lcmd.val s
  | .complete r0 r1 r2, s => Machine.complete r0 r1 r2 s
  | .classify c, s => { writeClass c s with seq := .cvScale }
  | .draw c, s => completeDrawn (writeClass c s)
  | .compare c v kappa, s => compareAndComplete c v kappa (writeClass c s)

/-- The latched command is a CONVERT that passes the checks, with this classification. -/
structure Converts (l : Latched) (fmt : Fmt) (rmode : RMode) (cpol : CasePolicy) : Prop where
  command : decodeCmd l.lcmd.val = .ok (.convert fmt rmode cpol)
  mode : rmode.isReserved = false
  fits : patternFits fmt l.la.val = true
  finite : (classifyPattern fmt l.la.val).cls.finiteNonzero = true

/-- What the latched words say of the effect: no fault has the code 0, and only a CONVERT that passes its checks goes on. -/
def Effect.Lawful (l : Latched) : Effect → Prop
  | .fault code => code ≠ .none
  | .complete _ _ _ => True
  | .classify c => ∃ fmt rmode cpol, Converts l fmt rmode cpol ∧ c = classifyPattern fmt l.la.val
  | .draw _ => True
  | .compare _ _ _ => True

/-- Where no check of a list has the code 0, no fault has. -/
theorem firstFault_ne_none {checks : List (Bool × FaultCode)} {code : FaultCode} (hchecks : ∀ c ∈ checks, c.2 ≠ .none)
    (h : firstFault checks = some code) : code ≠ .none := by
  induction checks with
  | nil => cases h
  | cons c checks ih =>
    obtain ⟨b, code'⟩ := c
    cases b with
    | true =>
      obtain rfl : code' = code := by simpa using h
      exact hchecks (true, code') (by simp)
    | false => exact ih (fun c hc => hchecks c (by simp [hc])) (by simpa using h)

/-- From the states with these latched words the meaning `run` always goes on, with one lawful effect. -/
def HasEffect (l : Latched) (run : State → Result) : Prop :=
  ∃ E : Effect, E.Lawful l ∧ ∀ s : State, s.latched = l → run s = .next (E.apply s)

/-- A checked command has the fault of its first failing check for its effect, or the effect of what follows. -/
theorem checked_effect {l : Latched} {i : Instr} (checks : Latched → List (Bool × FaultCode)) {k : State → Result}
    (hexec : ∀ s, exec i s = checked (checks s.latched) s fun _ => k s) (hcodes : ∀ c ∈ checks l, c.2 ≠ .none)
    (hk : firstFault (checks l) = none → HasEffect l k) : HasEffect l (exec i) := by
  cases hf : firstFault (checks l) with
  | some code =>
    refine ⟨.fault code, firstFault_ne_none hcodes hf, ?_⟩
    rintro s rfl
    exact (hexec s).trans (checked_fail hf)
  | none =>
    obtain ⟨E, hlawful, happly⟩ := hk hf
    refine ⟨E, hlawful, ?_⟩
    rintro s rfl
    exact ((hexec s).trans (checked_pass hf)).trans (happly s rfl)

/-- Where the checks of CONVERT pass, its mode is defined and its pattern fits (R321). -/
theorem of_convertChecks_pass {fmt : Fmt} {rmode : RMode} {cpol : CasePolicy} {b : Word}
    (h : firstFault (convertChecks fmt rmode cpol b) = none) : rmode.isReserved = false ∧ patternFits fmt b = true := by
  have checks := firstFault_eq_none.1 h
  simp [convertChecks] at checks
  exact ⟨checks.1, checks.2.1⟩

theorem convert_effect {l : Latched} {fmt : Fmt} {rmode : RMode} {cpol : CasePolicy}
    (hcommand : decodeCmd l.lcmd.val = .ok (.convert fmt rmode cpol)) :
    HasEffect l (exec (.convert fmt rmode cpol)) := by
  refine checked_effect (fun l => convertChecks fmt rmode cpol l.la.val) (exec_convert fmt rmode cpol)
    (by simp [convertChecks]) fun hpass => ?_
  obtain ⟨hmode, hfits⟩ := of_convertChecks_pass hpass
  cases hfinite : (classifyPattern fmt l.la.val).cls.finiteNonzero with
  | true =>
    refine ⟨.classify (classifyPattern fmt l.la.val), ⟨fmt, rmode, cpol, ⟨hcommand, hmode, hfits, hfinite⟩, rfl⟩, ?_⟩
    rintro s rfl
    exact convertGoesOn_finite hfinite
  | false =>
    refine ⟨.draw (classifyPattern fmt l.la.val), trivial, ?_⟩
    rintro s rfl
    exact convertGoesOn_not_finite hfinite

theorem ivcmp_effect (l : Latched) (fmt : Fmt) (rmode : RMode) (cpol : CasePolicy) :
    HasEffect l (exec (.ivcmp fmt rmode cpol)) := by
  refine checked_effect (fun l => ivcmpChecks fmt rmode cpol l.la.val l.lb.val) (exec_ivcmp fmt rmode cpol)
    (by simp [ivcmpChecks, convertChecks]) fun hpass => ?_
  have hconvert : firstFault (convertChecks fmt rmode cpol l.la.val) = none := by
    rw [firstFault_ivcmpChecks] at hpass
    exact (Option.or_eq_none_iff.1 hpass).1
  obtain ⟨hmode, -⟩ := of_convertChecks_pass hconvert
  cases hfinite : (classifyPattern fmt l.la.val).cls.finiteNonzero with
  | true =>
    obtain ⟨v, hv⟩ := scaleOf_succeeds (classifyPattern fmt l.la.val).sgn (classifyPattern fmt l.la.val).f.toNat
      (classifyPattern fmt l.la.val).edge hmode (romIndex_of_finite hfinite)
    refine ⟨.compare (classifyPattern fmt l.la.val) v (sext64 l.lb.val), trivial, ?_⟩
    rintro s rfl
    exact exec_ivcmp_finite hfinite hv
  | false =>
    refine ⟨.draw (classifyPattern fmt l.la.val), trivial, ?_⟩
    rintro s rfl
    exact ivcmpGoesOn_not_finite hfinite

theorem policy_effect (l : Latched) (fmt : Fmt) (rmode : RMode) (cpol : CasePolicy) :
    HasEffect l (exec (.policy fmt rmode cpol)) := by
  refine checked_effect (fun l => [(rmode.isReserved, .badOperand), (!patternFits fmt l.la.val, .badOperand)])
    (exec_policy fmt rmode cpol) (by simp) fun hpass => ?_
  have hmode : rmode.isReserved = false := firstFault_eq_none.1 hpass (rmode.isReserved, .badOperand) (by simp)
  obtain ⟨cl, cr, hpolicy⟩ := policyOf_exists hmode (signOf fmt l.la.val)
    (significandOf fmt (expFieldOf fmt l.la.val) (mantissaOf fmt l.la.val))
  refine ⟨.complete (policyWord cl cr) 0 0, trivial, ?_⟩
  rintro s rfl
  exact policyGoesOn_of_some hpolicy

theorem classify_effect (l : Latched) (fmt : Fmt) (rmode : RMode) (cpol : CasePolicy) :
    HasEffect l (exec (.classify fmt rmode cpol)) := by
  refine checked_effect (fun l => [(!patternFits fmt l.la.val, .badOperand)]) (exec_classify fmt rmode cpol) (by simp)
    fun _ => ⟨.complete (BitVec.ofNat 64 (classifyPattern fmt l.la.val).f.toNat) (tc64 (classifyPattern fmt l.la.val).e)
      (classWord (classifyPattern fmt l.la.val)), trivial, ?_⟩
  rintro s rfl
  rfl

/-- An estimator is its range check and a completion. -/
theorem estimator_effect (l : Latched) {i : Instr} {floorLog : Int → Int}
    (hexec : ∀ s, exec i s = checked [(outsideElogRange (sext64 s.latched.la.val), .range)] s fun _ =>
      .next (complete (tc64 (floorLog (sext64 s.latched.la.val))) 0 0 s)) :
    HasEffect l (exec i) := by
  refine checked_effect (fun l => [(outsideElogRange (sext64 l.la.val), .range)]) hexec (by simp)
    fun _ => ⟨.complete (tc64 (floorLog (sext64 l.la.val))) 0 0, trivial, ?_⟩
  rintro s rfl
  rfl

theorem cache_effect (l : Latched) (fmt : Fmt) (rmode : RMode) (cpol : CasePolicy) :
    HasEffect l (exec (.cache fmt rmode cpol)) := by
  cases hc : memRead fmt (sext64 l.la.val) with
  | none =>
    refine ⟨.fault .range, by simp [Effect.Lawful], ?_⟩
    rintro s rfl
    exact exec_cache_of_none hc rmode cpol
  | some c =>
    cases fmt with
    | binary32 =>
      refine ⟨.complete (c.extractLsb' 0 64) 0 0, trivial, ?_⟩
      rintro s rfl
      exact exec_cache_binary32 hc rmode cpol
    | binary64 =>
      refine ⟨.complete (c.extractLsb' 0 64) (c.extractLsb' 64 64) 0, trivial, ?_⟩
      rintro s rfl
      exact exec_cache_binary64 hc rmode cpol

/-- A command that only computes from its latched operands completes with what it computes. -/
theorem complete_effect (l : Latched) {i : Instr} {r0 r1 r2 : Latched → Word}
    (hexec : ∀ s, exec i s = .next (complete (r0 s.latched) (r1 s.latched) (r2 s.latched) s)) :
    HasEffect l (exec i) :=
  ⟨.complete (r0 l) (r1 l) (r2 l), trivial, fun s hs => by rw [hexec, hs]; rfl⟩

/-- No command word decodes to a bus transaction (R120). -/
theorem decodeCmd_ne_bus {w : Word} : (∀ r v, decodeCmd w ≠ .ok (.busWrite r v)) ∧ ∀ r, decodeCmd w ≠ .ok (.busRead r) := by
  have no_row {op : BitVec 8} {fmt : Fmt} {rmode : RMode} {cpol : CasePolicy} :
      (∀ r v, commandOfOp op fmt rmode cpol ≠ some (.busWrite r v)) ∧
        ∀ r, commandOfOp op fmt rmode cpol ≠ some (.busRead r) := by
    unfold commandOfOp
    split <;> simp
  exact ⟨fun r v h => no_row.1 r v (decodeCmd_eq_ok_iff.1 h).1, fun r h => no_row.2 r (decodeCmd_eq_ok_iff.1 h).1⟩

/-- The EXEC step always goes on, and its latched words decide its effect (R320). -/
theorem execStep_effect (l : Latched) :
    HasEffect l execStep := by
  cases hd : decodeCmd l.lcmd.val with
  | error _ =>
    refine ⟨.fault .illegalCommand, by simp [Effect.Lawful], ?_⟩
    rintro s rfl
    exact execStep_of_illegal fun i h => by simp [hd] at h
  | ok i =>
    suffices h : HasEffect l (exec i) by
      obtain ⟨E, hlawful, happly⟩ := h
      exact ⟨E, hlawful, fun s hs => (execStep_of_decodes (by rw [hs, hd])).trans (happly s hs)⟩
    cases i with
    | convert fmt rmode cpol => exact convert_effect hd
    | classify fmt rmode cpol => exact classify_effect l fmt rmode cpol
    | policy fmt rmode cpol => exact policy_effect l fmt rmode cpol
    | mulw fmt rmode cpol =>
      exact complete_effect l (r0 := fun l => (multiplyWide l.la.val l.lb.val).2)
        (r1 := fun l => (multiplyWide l.la.val l.lb.val).1) (r2 := fun _ => 0) (exec_mulw fmt rmode cpol)
    | mulwhi fmt rmode cpol =>
      exact complete_effect l (r0 := fun l => multiplyWideUpper l.la.val l.lb.val) (r1 := fun _ => 0) (r2 := fun _ => 0)
        (exec_mulwhi fmt rmode cpol)
    | mul192 fmt rmode cpol =>
      exact complete_effect l (r0 := fun l => (multiplyWide192Upper128 l.la.val l.lc.val l.lb.val).2)
        (r1 := fun l => (multiplyWide192Upper128 l.la.val l.lc.val l.lb.val).1) (r2 := fun _ => 0)
        (exec_mul192 fmt rmode cpol)
    | flog10p2 fmt rmode cpol => exact estimator_effect l (exec_flog10p2 fmt rmode cpol)
    | flog2p10 fmt rmode cpol => exact estimator_effect l (exec_flog2p10 fmt rmode cpol)
    | cache fmt rmode cpol => exact cache_effect l fmt rmode cpol
    | ivcmp fmt rmode cpol => exact ivcmp_effect l fmt rmode cpol
    | isprodint fmt rmode cpol =>
      exact complete_effect l (r0 := fun l => bitWord (isProductInteger l.la.val.toNat (sext64 l.lb.val) (sext64 l.lc.val)))
        (r1 := fun _ => 0) (r2 := fun _ => 0) (exec_isprodint fmt rmode cpol)
    | busWrite r v => exact absurd hd (decodeCmd_ne_bus.1 r v)
    | busRead r => exact absurd hd (decodeCmd_ne_bus.2 r)

/-- Any effect but a CONVERT's that goes on ends the command. -/
theorem Effect.ends {E : Effect} {l : Latched} (hlawful : E.Lawful l)
    (hother : ∀ fmt rmode cpol, decodeCmd l.lcmd.val ≠ .ok (.convert fmt rmode cpol)) (s : State) :
    (E.apply s).seq.busy = false := by
  cases E with
  | classify c =>
    obtain ⟨fmt, rmode, cpol, hconverts, -⟩ := hlawful
    exact absurd hconverts.command (hother fmt rmode cpol)
  | _ => rfl

/-- Settles O15: only CONVERT has an effect that goes on. -/
theorem otherCommandsTakeOneStep : Obligations.OtherCommandsTakeOneStep := by
  rintro s _ - hnext hseq rfl hother
  obtain ⟨E, hlawful, happly⟩ := execStep_effect s.latched
  refine ⟨E.apply (popInbox s), ?_, E.ends hlawful hother _⟩
  rw [step_of_sequencerNext hnext, sequencerStep_of_exec (s := popInbox s) hseq]
  exact happly (popInbox s) rfl

end Sys2Proof.Machine
end

section
/-! PROOFS. The inversion of a sequencer step and of a step of the system (R320, R395), and the rules about the whole machine that
hold from every state: who writes which register, and that the host and a running command do not see each other. -/

namespace Sys2Proof.Machine

open Sys2Proof

/-! ## The steps of a conversion by their branches (R260 to R265) -/

/-- The comparison of an upward lambda, with `MEMO` after it (R262): none is made above KMAX. -/
def tryUp (fmt : Fmt) (z delta : ℚ) (cl : Bool) (memo : Memo) (kappa lam : Int) : Bool × Memo :=
  if kappa + lam ≤ fmt.kMax then acceptAt z delta cl memo (kappa + lam) else (false, memo)

/-- The kappa that an upward lambda leaves (R262). -/
def moveUp (fmt : Fmt) (z delta : ℚ) (cl : Bool) (memo : Memo) (kappa lam : Int) : Int :=
  if (tryUp fmt z delta cl memo kappa lam).1 then kappa + lam else kappa

/-- The comparison of a downward lambda, with `MEMO` after it (R263): none is made below KMIN + 1. -/
def tryDown (z delta : ℚ) (cl : Bool) (memo : Memo) (kappa lam : Int) : Bool × Memo :=
  if kMin + 1 ≤ kappa - lam then acceptAt z delta cl memo (kappa - lam) else (true, memo)

/-- The kappa that a downward lambda leaves (R263). -/
def moveDown (z delta : ℚ) (cl : Bool) (memo : Memo) (kappa lam : Int) : Int :=
  if (tryDown z delta cl memo kappa lam).1 then kappa else kappa - lam

/-- The scale step, as CV_SCALE makes it from its registers (R260). -/
def scaleOfRegisters (l : Latched) (c : ClassRegs) : Except Fault ScaleValues :=
  scaleOf (fmtField l.lcmd.val) (rmodeField l.lcmd.val) c.sgn.val c.f.val.toNat c.e.val c.edge.val

/-- The state that CV_SCALE leaves (R260). -/
def scaled (v : ScaleValues) (s : State) : State :=
  { writeScale v s with
    search := { s.search with kappa := .holds (fmtField s.latched.lcmd.val).kappa0, lidx := .holds 0 }
    seq := .cvInit }

/-- The state that CV_INIT leaves (R261). -/
def initialised (a : Bool × Memo) (s : State) : State := { s with memo := a.2, seq := if a.1 then .cvUp else .cvDown }

/-- The state with the significand written (R264, R265). -/
def writeSig (sig : Word) (s : State) : State := { s with search := { s.search with sig := .holds sig } }

/-- The completion of a conversion with candidate `n` at exponent `x` (R264, R265). -/
def convertCompletes (n x : Int) (sgn : Bool) (s : State) : State :=
  complete (BitVec.ofInt 64 n) (tc64 x) (bitWord sgn) (writeSig (BitVec.ofInt 64 n) s)

theorem cvScale_of_ok {s : State} {v : ScaleValues} (h : scaleOfRegisters s.latched s.cls = .ok v) :
    cvScale s = .next (scaled v s) := by
  rw [scaleOfRegisters] at h
  simp only [cvScale, h]
  rfl

theorem cvScale_of_error {s : State} {r : Fault} (h : scaleOfRegisters s.latched s.cls = .error r) :
    cvScale s = .fault r := by
  rw [scaleOfRegisters] at h
  simp only [cvScale, h]

theorem cvInit_eq (s : State) : cvInit s =
    .next (initialised (acceptAt s.scale.z.val s.scale.delta.val s.scale.cl.val s.memo s.search.kappa.val) s) := rfl

theorem cvUp_of_some {s : State} {lam : Int}
    (h : (fmtField s.latched.lcmd.val).lambdaUp[s.search.lidx.val]? = some lam) :
    cvUp s = .next (finishLambda (fmtField s.latched.lcmd.val).lambdaUp .cvUp
      (moveUp (fmtField s.latched.lcmd.val) s.scale.z.val s.scale.delta.val s.scale.cl.val s.memo s.search.kappa.val lam)
      s.search.lidx.val
      (moveUp (fmtField s.latched.lcmd.val) s.scale.z.val s.scale.delta.val s.scale.cl.val s.memo s.search.kappa.val lam)
      (tryUp (fmtField s.latched.lcmd.val) s.scale.z.val s.scale.delta.val s.scale.cl.val s.memo s.search.kappa.val lam).2
      s) := by
  simp only [cvUp, h]
  rfl

theorem cvUp_of_none {s : State} (h : (fmtField s.latched.lcmd.val).lambdaUp[s.search.lidx.val]? = none) :
    cvUp s = .fault .lambdaIndex := by
  simp only [cvUp, h]

theorem cvDown_of_some {s : State} {lam : Int}
    (h : (fmtField s.latched.lcmd.val).lambdaDown[s.search.lidx.val]? = some lam) :
    cvDown s = .next (finishLambda (fmtField s.latched.lcmd.val).lambdaDown .cvDown
      (moveDown s.scale.z.val s.scale.delta.val s.scale.cl.val s.memo s.search.kappa.val lam) s.search.lidx.val
      (moveDown s.scale.z.val s.scale.delta.val s.scale.cl.val s.memo s.search.kappa.val lam - 1)
      (tryDown s.scale.z.val s.scale.delta.val s.scale.cl.val s.memo s.search.kappa.val lam).2 s) := by
  simp only [cvDown, h]
  rfl

theorem cvDown_of_none {s : State} (h : (fmtField s.latched.lcmd.val).lambdaDown[s.search.lidx.val]? = none) :
    cvDown s = .fault .lambdaIndex := by
  simp only [cvDown, h]

/-- The candidate is the open right edge: CV_SETTLE goes on to the tail (R264). -/
theorem cvSettle_of_edge {s : State} (hcr : s.scale.cr.val = false)
    (h : remainder s.scale.z.val s.search.kq.val = 0) : cvSettle s =
      .next { writeSig (BitVec.ofInt 64 (candidate s.scale.z.val s.search.kq.val)) s with seq := .cvTail } := by
  simp only [cvSettle, hcr, h]
  rfl

/-- In every other case it completes (R258, R264). -/
theorem cvSettle_of_inside {s : State} (h : s.scale.cr.val = true ∨ remainder s.scale.z.val s.search.kq.val ≠ 0) :
    cvSettle s = .next (convertCompletes (candidate s.scale.z.val s.search.kq.val) (s.search.kq.val + s.scale.k0.val)
      s.cls.sgn.val s) := by
  have branch : (!s.scale.cr.val && decide (remainder s.scale.z.val s.search.kq.val = 0)) = false := by
    rcases h with h | h <;> simp [h]
  simp only [cvSettle, branch]
  rfl

theorem cvTail_eq (s : State) : cvTail s =
    .next (convertCompletes
      (candidate s.scale.z.val (min s.search.kq.val (tailLimit s.scale.delta.val s.scale.cl.val)) - 1)
      (min s.search.kq.val (tailLimit s.scale.delta.val s.scale.cl.val) + s.scale.k0.val) s.cls.sgn.val s) := rfl

/-! ## The inversion of a sequencer step -/

/-- `t` has the bank, the latches and the host's side of `s`: at most the internal registers, SEQ and the free values taken
differ. -/
structure InternalsWritten (s t : State) : Prop where
  bank : t.bank = s.bank
  latched : t.latched = s.latched
  inbox : t.env.inbox = s.env.inbox
  resp : t.env.resp = s.env.resp

/-- What a sequencer step can do: nothing where no command runs, a fault in EXEC, a completion, or a step inside a command
that writes internal registers. -/
inductive SequencerMoves (s t : State) : Prop where
  | rests (hbusy : s.seq.busy = false) (h : t = s)
  | faults (code : FaultCode) (hseq : s.seq = .exec) (hcode : code ≠ .none) (h : t = faultEntry code s.latched.lcmd.val s)
  | completes (r0 r1 r2 : Word) (s' : State) (hbusy : s.seq.busy = true) (h : t = complete r0 r1 r2 s')
      (hs' : InternalsWritten s s')
  | goesOn (hbusy : s.seq.busy = true) (hbusy' : t.seq.busy = true) (h : InternalsWritten s t)

/-- The EXEC step by its effect. -/
theorem execStep_moves {s t : State} (hseq : s.seq = .exec) (h : execStep s = .next t) : SequencerMoves s t := by
  have hbusy : s.seq.busy = true := by rw [hseq]; rfl
  obtain ⟨E, hlawful, happly⟩ := execStep_effect s.latched
  obtain rfl : E.apply s = t := by simpa [happly s rfl] using h
  cases E with
  | fault code => exact .faults code hseq hlawful rfl
  | complete r0 r1 r2 => exact .completes r0 r1 r2 s hbusy rfl ⟨rfl, rfl, rfl, rfl⟩
  | classify c => exact .goesOn hbusy rfl ⟨rfl, rfl, rfl, rfl⟩
  | draw c => exact .completes _ _ _ _ hbusy rfl ⟨rfl, rfl, rfl, rfl⟩
  | compare c v kappa => exact .completes _ _ _ _ hbusy rfl ⟨rfl, rfl, rfl, rfl⟩

/-- The end of a lambda step writes internal registers, and the search goes on or settles. -/
theorem finishLambda_moves (lambdas : List Int) {again : SeqState} (kappa : Int) (lidx : Nat) (settled : Int) (memo : Memo)
    {s : State} (hbusy : s.seq.busy = true) (hagain : again.busy = true) :
    SequencerMoves s (finishLambda lambdas again kappa lidx settled memo s) := by
  unfold finishLambda
  split
  · exact .goesOn hbusy rfl ⟨rfl, rfl, rfl, rfl⟩
  · exact .goesOn hbusy hagain ⟨rfl, rfl, rfl, rfl⟩

theorem cvScale_moves {s t : State} (hbusy : s.seq.busy = true) (h : cvScale s = .next t) : SequencerMoves s t := by
  cases hv : scaleOfRegisters s.latched s.cls with
  | error r => cases (cvScale_of_error hv).symm.trans h
  | ok v =>
    cases (cvScale_of_ok hv).symm.trans h
    exact .goesOn hbusy rfl ⟨rfl, rfl, rfl, rfl⟩

theorem cvInit_moves {s t : State} (hbusy : s.seq.busy = true) (h : cvInit s = .next t) : SequencerMoves s t := by
  cases (cvInit_eq s).symm.trans h
  refine .goesOn hbusy ?_ ⟨rfl, rfl, rfl, rfl⟩
  rw [initialised]
  split <;> rfl

theorem cvUp_moves {s t : State} (hbusy : s.seq.busy = true) (h : cvUp s = .next t) : SequencerMoves s t := by
  cases hlam : (fmtField s.latched.lcmd.val).lambdaUp[s.search.lidx.val]? with
  | none => cases (cvUp_of_none hlam).symm.trans h
  | some lam =>
    cases (cvUp_of_some hlam).symm.trans h
    exact finishLambda_moves _ _ _ _ _ hbusy rfl

theorem cvDown_moves {s t : State} (hbusy : s.seq.busy = true) (h : cvDown s = .next t) : SequencerMoves s t := by
  cases hlam : (fmtField s.latched.lcmd.val).lambdaDown[s.search.lidx.val]? with
  | none => cases (cvDown_of_none hlam).symm.trans h
  | some lam =>
    cases (cvDown_of_some hlam).symm.trans h
    exact finishLambda_moves _ _ _ _ _ hbusy rfl

/-- The two branches of CV_SETTLE (R264). -/
theorem settle_branch (s : State) : (s.scale.cr.val = false ∧ remainder s.scale.z.val s.search.kq.val = 0) ∨
    (s.scale.cr.val = true ∨ remainder s.scale.z.val s.search.kq.val ≠ 0) := by
  cases s.scale.cr.val <;> simp [em]

theorem cvSettle_moves {s t : State} (hbusy : s.seq.busy = true) (h : cvSettle s = .next t) : SequencerMoves s t := by
  rcases settle_branch s with ⟨hcr, hr⟩ | hinside
  · cases (cvSettle_of_edge hcr hr).symm.trans h
    exact .goesOn hbusy rfl ⟨rfl, rfl, rfl, rfl⟩
  · cases (cvSettle_of_inside hinside).symm.trans h
    exact .completes _ _ _ _ hbusy rfl ⟨rfl, rfl, rfl, rfl⟩

theorem cvTail_moves {s t : State} (hbusy : s.seq.busy = true) (h : cvTail s = .next t) : SequencerMoves s t := by
  cases (cvTail_eq s).symm.trans h
  exact .completes _ _ _ _ hbusy rfl ⟨rfl, rfl, rfl, rfl⟩

/-- The inversion of the sequencer's step, from any state (R45, R320). -/
theorem sequencerStep_moves {s t : State} (h : sequencerStep s = .next t) : SequencerMoves s t := by
  cases hseq : s.seq with
  | idle =>
    rw [sequencerStep_of_idle hseq] at h
    cases h
    exact .rests (by rw [hseq]; rfl) rfl
  | exec => exact execStep_moves hseq (sequencerStep_of_exec hseq ▸ h)
  | cvScale => exact cvScale_moves (by rw [hseq]; rfl) (sequencerStep_of_cvScale hseq ▸ h)
  | cvInit => exact cvInit_moves (by rw [hseq]; rfl) (sequencerStep_of_cvInit hseq ▸ h)
  | cvUp => exact cvUp_moves (by rw [hseq]; rfl) (sequencerStep_of_cvUp hseq ▸ h)
  | cvDown => exact cvDown_moves (by rw [hseq]; rfl) (sequencerStep_of_cvDown hseq ▸ h)
  | cvSettle => exact cvSettle_moves (by rw [hseq]; rfl) (sequencerStep_of_cvSettle hseq ▸ h)
  | cvTail => exact cvTail_moves (by rw [hseq]; rfl) (sequencerStep_of_cvTail hseq ▸ h)
  | faulted =>
    rw [sequencerStep_of_faulted hseq] at h
    cases h
    exact .rests (by rw [hseq]; rfl) rfl

/-! ## The inversion of a step of the system -/

/-- What a step of the system can be: the sequencer's, a host write or read, or the reset signal (R395). -/
inductive StepBy (s t : State) : Prop where
  | sequencer (hnext : SequencerNext s) (h : sequencerStep (popInbox s) = .next t)
  | write (w : BusWord) (rest : List Event) (hinbox : s.env.inbox = .txn w :: rest) (r : HostReg) (v : Word)
      (h : t = hostWrite r v (popInbox s))
  | read (w : BusWord) (rest : List Event) (hinbox : s.env.inbox = .txn w :: rest) (r : HostReg)
      (h : t = hostRead r (popInbox s))
  | reset (rest : List Event) (hinbox : s.env.inbox = .reset :: rest) (h : t = applyReset (popInbox s))

theorem step_by {s t : State} (h : step s = .next t) : StepBy s t := by
  rcases systemStep_cases h with ⟨hquiet, hseq⟩ | ⟨e, rest, hinbox, he⟩
  · exact .sequencer (.inl hquiet) (by rwa [popInbox_of_quiet hquiet])
  · cases e with
    | txn w =>
      rcases hostTransaction_cases he with ⟨r, v, ht⟩ | ⟨r, ht⟩
      · exact .write w rest hinbox r v ht
      · exact .read w rest hinbox r ht
    | sequencer => exact .sequencer (.inr ⟨rest, hinbox⟩) he
    | reset =>
      cases he
      exact .reset rest hinbox rfl

/-! ## Who writes what -/

/-- Settles O22: neither a fault nor a completion nor a step inside a command writes them. -/
theorem sequencerKeepsCommandAndOperands : Obligations.SequencerKeepsCommandAndOperands := by
  intro s t h
  cases sequencerStep_moves h with
  | rests _ h => simp [h]
  | faults code _ _ h => simp [h]
  | completes r0 r1 r2 s' _ h hs' => simp [h, hs'.bank, hs'.latched]
  | goesOn _ _ h => simp [h.bank, h.latched]

/-- Settles O23: of what a step can do only a completion writes the results. -/
theorem onlyCompletionWritesResults : Obligations.OnlyCompletionWritesResults := by
  intro s t h hreset hchanged
  cases step_by h with
  | sequencer _ h =>
    cases sequencerStep_moves h with
    | rests _ h => exact absurd (by simp [h]) hchanged
    | faults code _ _ h => exact absurd (by simp [h]) hchanged
    | completes r0 r1 r2 s' hbusy h _ => exact ⟨hbusy, by simp [h], by simp [h], by simp [h]⟩
    | goesOn _ _ h => exact absurd (by simp [h.bank]) hchanged
  | write _ _ _ r v h =>
    obtain ⟨h0, h1, h2, -⟩ := hostWrite_frame r v (popInbox s)
    exact absurd (by simp [h, h0, h1, h2]) hchanged
  | read _ _ _ r h => exact absurd (by simp [h]) hchanged
  | reset rest hinbox _ => exact absurd hinbox (hreset rest)

/-- Outside IDLE a host write changes operand registers and OVR at most (R32, R35, R352). -/
theorem hostWrite_bank_of_not_idle {s : State} (h : s.seq ≠ .idle) (r : HostReg) (v : Word) :
    ∃ opa opb opc ovr, (hostWrite r v s).bank =
      { s.bank with opa := opa, opb := opb, opc := opc, status := { s.bank.status with ovr := ovr } } := by
  cases r with
  | cmd =>
    have dropped : hostWrite .cmd v s = overrun s := if_neg h
    exact ⟨_, _, _, true, by rw [dropped]; rfl⟩
  | _ => exact ⟨_, _, _, _, rfl⟩

/-- Settles O24: in FAULTED the sequencer rests, and the host's writes reach operand registers and OVR alone. -/
theorem faultedUntilReset : Obligations.FaultedUntilReset := by
  intro s t hseq h hreset
  cases step_by h with
  | sequencer _ h =>
    rw [sequencerStep_of_faulted (s := popInbox s) hseq] at h
    cases h
    simp [hseq]
  | write _ _ _ r v h =>
    have not_idle : (popInbox s).seq ≠ .idle := by simp [hseq]
    obtain ⟨hkept, -⟩ := hostWrite_frame_of_not_idle not_idle r v
    obtain ⟨opa, opb, opc, ovr, hbank⟩ := hostWrite_bank_of_not_idle not_idle r v
    simp [h, hkept, hbank, hseq]
  | read _ _ _ r h => simp [h, hseq]
  | reset rest hinbox _ => exact absurd hinbox (hreset rest)

/-- Settles O25: of what a sequencer step can do only a fault enters FAULTED. -/
theorem faultsArePrecise : Obligations.FaultsArePrecise := by
  intro s t hseq h hfaulted
  cases sequencerStep_moves h with
  | rests _ h => exact absurd (h ▸ hfaulted) hseq
  | faults code hexec hcode h => exact ⟨hexec, _, code, rfl, hcode, h ▸ faults_faultEntry code _ s⟩
  | completes r0 r1 r2 s' _ h _ => simp [h] at hfaulted
  | goesOn _ hbusy _ => simp [hfaulted, SeqState.busy] at hbusy

/-- A running command is outside IDLE. -/
theorem not_idle_of_busy {s : State} (h : s.seq.busy = true) : s.seq ≠ .idle := by
  intro hidle
  simp [hidle, SeqState.busy] at h

/-- Settles O26. -/
theorem hostCannotDisturbRunningCommand : Obligations.HostCannotDisturbRunningCommand := by
  intro s t w hbusy h
  rcases hostTransaction_cases h with ⟨r, v, rfl⟩ | ⟨r, rfl⟩
  · obtain ⟨hseq, hlatched⟩ := hostWrite_frame_of_not_idle (not_idle_of_busy hbusy) r v
    obtain ⟨opa, opb, opc, ovr, hbank⟩ := hostWrite_bank_of_not_idle (not_idle_of_busy hbusy) r v
    exact ⟨hseq, hlatched, hostWrite_internalsKept r v s, by simp [hbank]⟩
  · exact ⟨hostRead_seq r s, hostRead_latched r s, hostRead_internalsKept r s, by simp⟩

/-! ## What the sequencer does not read -/

/-- The state with the bank and the environment edited. -/
def edit (u : Bank → Bank) (w : Environment → Environment) (s : State) : State := { s with bank := u s.bank, env := w s.env }

/-- An edit that no sequencer step sees: it commutes with the writes of a completion and of fault entry, and leaves the free
values as they are. -/
structure Unseen (u : Bank → Bank) (w : Environment → Environment) : Prop where
  completed : ∀ b r0 r1 r2, u { b with res0 := r0, res1 := r1, res2 := r2, status := b.status.completed } =
    { u b with res0 := r0, res1 := r1, res2 := r2, status := (u b).status.completed }
  faulted : ∀ b code op, u { b with status := b.status.faulted code op } =
    { u b with status := (u b).status.faulted code op }
  draws : ∀ e, (w e).draws = e.draws
  drawn : ∀ e n, w { e with draws := n } = { w e with draws := n }

/-- An answer with its next state changed. -/
def mapNext (g : State → State) : Result → Result
  | .next t => .next (g t)
  | .fault r => .fault r
  | .refused r => .refused r

section
variable {u : Bank → Bank} {w : Environment → Environment}

theorem complete_edit (hu : Unseen u w) (r0 r1 r2 : Word) (s : State) :
    complete r0 r1 r2 (edit u w s) = edit u w (complete r0 r1 r2 s) :=
  congrArg (fun b => ({ edit u w s with bank := b, seq := .idle } : State)) (hu.completed s.bank r0 r1 r2).symm

theorem completeDrawn_edit (hu : Unseen u w) (s : State) : completeDrawn (edit u w s) = edit u w (completeDrawn s) := by
  have drawn : ({ edit u w s with env := { w s.env with draws := (w s.env).draws + 3 } } : State) =
      edit u w { s with env := { s.env with draws := s.env.draws + 3 } } := by
    rw [hu.draws, ← hu.drawn]
    rfl
  have unfolded : completeDrawn (edit u w s) = complete (Config.freeDraw (w s.env).draws)
      (Config.freeDraw ((w s.env).draws + 1)) (Config.freeDraw ((w s.env).draws + 2))
      { edit u w s with env := { w s.env with draws := (w s.env).draws + 3 } } := rfl
  rw [unfolded, drawn, hu.draws, complete_edit hu]
  rfl

theorem faultEntry_edit (hu : Unseen u w) (code : FaultCode) (v : Word) (s : State) :
    faultEntry code v (edit u w s) = edit u w (faultEntry code v s) :=
  congrArg (fun b => ({ edit u w s with bank := b, seq := .faulted } : State)) (hu.faulted s.bank code (opField v)).symm

theorem effect_edit (hu : Unseen u w) (E : Effect) (s : State) : E.apply (edit u w s) = edit u w (E.apply s) := by
  cases E with
  | fault code => exact faultEntry_edit hu code _ s
  | complete r0 r1 r2 => exact complete_edit hu r0 r1 r2 s
  | classify c => rfl
  | draw c => exact completeDrawn_edit hu (writeClass c s)
  | compare c v kappa => exact complete_edit hu _ _ _ { writeScale v (writeClass c s) with memo := _ }

theorem finishLambda_edit (lambdas : List Int) (again : SeqState) (kappa : Int) (lidx : Nat) (settled : Int) (memo : Memo)
    (s : State) : finishLambda lambdas again kappa lidx settled memo (edit u w s) =
      edit u w (finishLambda lambdas again kappa lidx settled memo s) := by
  unfold finishLambda
  split <;> rfl

theorem execStep_edit (hu : Unseen u w) (s : State) : execStep (edit u w s) = mapNext (edit u w) (execStep s) := by
  obtain ⟨E, -, happly⟩ := execStep_effect s.latched
  rw [happly s rfl, happly (edit u w s) rfl, effect_edit hu]
  rfl

theorem cvScale_edit (s : State) : cvScale (edit u w s) = mapNext (edit u w) (cvScale s) := by
  cases hv : scaleOfRegisters s.latched s.cls with
  | error r => rw [cvScale_of_error hv, cvScale_of_error (s := edit u w s) hv, mapNext]
  | ok v =>
    rw [cvScale_of_ok hv, cvScale_of_ok (s := edit u w s) hv]
    rfl

theorem cvUp_edit (s : State) : cvUp (edit u w s) = mapNext (edit u w) (cvUp s) := by
  cases hlam : (fmtField s.latched.lcmd.val).lambdaUp[s.search.lidx.val]? with
  | none => rw [cvUp_of_none hlam, cvUp_of_none (s := edit u w s) hlam, mapNext]
  | some lam =>
    rw [cvUp_of_some hlam, cvUp_of_some (s := edit u w s) hlam, finishLambda_edit]
    rfl

theorem cvDown_edit (s : State) : cvDown (edit u w s) = mapNext (edit u w) (cvDown s) := by
  cases hlam : (fmtField s.latched.lcmd.val).lambdaDown[s.search.lidx.val]? with
  | none => rw [cvDown_of_none hlam, cvDown_of_none (s := edit u w s) hlam, mapNext]
  | some lam =>
    rw [cvDown_of_some hlam, cvDown_of_some (s := edit u w s) hlam, finishLambda_edit]
    rfl

theorem convertCompletes_edit (hu : Unseen u w) (n x : Int) (sgn : Bool) (s : State) :
    convertCompletes n x sgn (edit u w s) = edit u w (convertCompletes n x sgn s) :=
  complete_edit hu _ _ _ (writeSig _ s)

theorem cvSettle_edit (hu : Unseen u w) (s : State) : cvSettle (edit u w s) = mapNext (edit u w) (cvSettle s) := by
  rcases settle_branch s with ⟨hcr, hr⟩ | hinside
  · rw [cvSettle_of_edge hcr hr, cvSettle_of_edge (s := edit u w s) hcr hr]
    rfl
  · rw [cvSettle_of_inside hinside, cvSettle_of_inside (s := edit u w s) hinside, convertCompletes_edit hu]
    rfl

theorem cvTail_edit (hu : Unseen u w) (s : State) : cvTail (edit u w s) = mapNext (edit u w) (cvTail s) := by
  rw [cvTail_eq, cvTail_eq, convertCompletes_edit hu]
  rfl

/-- A sequencer step of an edited state is the edited step (R32, R35, R401). -/
theorem sequencerStep_edit (hu : Unseen u w) (s : State) :
    sequencerStep (edit u w s) = mapNext (edit u w) (sequencerStep s) := by
  have hseq : (edit u w s).seq = s.seq := rfl
  unfold sequencerStep
  rw [hseq]
  cases s.seq with
  | idle => rfl
  | exec => exact execStep_edit hu s
  | cvScale => exact cvScale_edit s
  | cvInit => rfl
  | cvUp => exact cvUp_edit s
  | cvDown => exact cvDown_edit s
  | cvSettle => exact cvSettle_edit hu s
  | cvTail => exact cvTail_edit hu s
  | faulted => rfl

theorem sequencerStep_edit_next (hu : Unseen u w) {s t : State} (h : sequencerStep s = .next t) :
    sequencerStep (edit u w s) = .next (edit u w t) := by
  rw [sequencerStep_edit hu, h, mapNext]

end

/-! ## The host's accesses as edits -/

/-- A write of a register other than CMD is an unseen edit (R32, R35). -/
theorem hostWrite_edit {r : HostReg} (hr : r ≠ .cmd) (v : Word) :
    ∃ u, Unseen u id ∧ ∀ s, hostWrite r v s = edit u id s := by
  have unchanged : Unseen id id := by constructor <;> intros <;> rfl
  cases r with
  | cmd => exact absurd rfl hr
  | opa => exact ⟨fun b => { b with opa := v }, by constructor <;> intros <;> rfl, fun _ => rfl⟩
  | opb => exact ⟨fun b => { b with opb := v }, by constructor <;> intros <;> rfl, fun _ => rfl⟩
  | opc => exact ⟨fun b => { b with opc := v }, by constructor <;> intros <;> rfl, fun _ => rfl⟩
  | _ => exact ⟨id, unchanged, fun _ => rfl⟩

/-- The edit of a read: the value returned to the host (R140). -/
theorem unseen_resp (v : Word) : Unseen id (fun e => { e with resp := some v }) := by constructor <;> intros <;> rfl

/-- The edit of an overrun: OVR (R352). -/
theorem unseen_overrun : Unseen (fun b => { b with status := b.status.overrun }) id := by constructor <;> intros <;> rfl

/-- Settles O27: the three accesses are edits that the sequencer does not see. -/
theorem hostAccessCommutesWithSequencer : Obligations.HostAccessCommutesWithSequencer := by
  intro s t h
  refine ⟨fun r v hr => ?_, fun r => ?_, fun v hs => ?_⟩
  · obtain ⟨u, hu, hwrite⟩ := hostWrite_edit hr v
    rw [hwrite, hwrite]
    exact sequencerStep_edit_next hu h
  · exact ⟨_, sequencerStep_edit_next (unseen_resp (s.bank.get r)) h, rfl, rfl, rfl, ⟨rfl, rfl, rfl, rfl⟩, rfl, rfl, rfl⟩
  · have dropped : hostWrite .cmd v s = overrun s := if_neg hs
    have step_overrun : sequencerStep (overrun s) = .next (overrun t) := sequencerStep_edit_next unseen_overrun h
    rw [dropped]
    refine ⟨fun ht => ?_, overrun t, step_overrun, rfl, rfl, ⟨rfl, rfl, rfl, rfl⟩, rfl, fun r hr => ?_, rfl⟩
    · rw [step_overrun, show hostWrite .cmd v t = overrun t from if_neg ht]
    · cases r <;> simp_all [Bank.get]

end Sys2Proof.Machine
end

section
/-! PROOFS. The invariant of the machine (10_state.md R34, R45, R50 to R58): it does not look at the environment, the host's
accesses keep it, a completion and a fault entry restore it, and each step of a conversion hands the next one what it reads. -/

namespace Sys2Proof.Machine

open Sys2Proof

/-! ## What the invariant looks at -/

/-- The invariant of a conversion reads CMD, SEQ, the latches and the internal registers alone. -/
theorem ConvertInv.congr {fmt : Fmt} {rmode : RMode} {cpol : CasePolicy} {b : Word} {s t : State}
    (h : ConvertInv fmt rmode cpol b s) (hcmd : t.bank.cmd = s.bank.cmd) (hseq : t.seq = s.seq)
    (hlatched : t.latched = s.latched) (hkept : InternalsKept s t) : ConvertInv fmt rmode cpol b t := by
  obtain ⟨hcls, hscale, hmemo, hsearch⟩ := hkept
  obtain ⟨command, mode, operand, fits, finite, classified, scaled, init, up, down, settled⟩ := h
  exact ⟨by rwa [hcmd], mode, by rwa [hlatched], fits, finite, by rwa [hcls], by rwa [hseq, hscale, hmemo],
    by rwa [hseq, hsearch], by rwa [hseq, hsearch], by rwa [hseq, hsearch], by rwa [hseq, hsearch]⟩

/-- The invariant reads no operand register, no result and nothing of the environment. -/
theorem Inv.congr {s t : State} (h : Inv s) (hstatus : StatusInv t) (hcmd : t.bank.cmd = s.bank.cmd) (hseq : t.seq = s.seq)
    (hlatched : t.latched = s.latched) (hkept : InternalsKept s t) : Inv t where
  status := hstatus
  latch := ⟨by rw [hseq, hlatched, hcmd]; exact h.latch.lcmd, by rw [hseq, hlatched]; exact h.latch.operands⟩
  convert := by
    rw [hseq]
    intro hconverting
    obtain ⟨fmt, rmode, cpol, b, hconvert⟩ := h.convert hconverting
    exact ⟨fmt, rmode, cpol, b, hconvert.congr hcmd hseq hlatched hkept⟩

/-- STATUS and SEQ decide whether STATUS agrees with SEQ; OVR is free. -/
theorem StatusInv.congr {s t : State} (h : StatusInv s) (hseq : t.seq = s.seq) (hcmd : t.bank.cmd = s.bank.cmd) {ovr : Bool}
    (hstatus : t.bank.status = { s.bank.status with ovr := ovr }) : StatusInv t := by
  obtain ⟨busy, fault, done, noFault, faultCode⟩ := h
  constructor <;> rw [hstatus]
  · rwa [hseq]
  · rwa [hseq]
  · rwa [hseq]
  · exact noFault
  · rwa [hcmd]

theorem Inv.popInbox {s : State} (h : Inv s) : Inv (popInbox s) :=
  h.congr (h.status.congr (ovr := s.bank.status.ovr) rfl rfl rfl) rfl rfl rfl ⟨rfl, rfl, rfl, rfl⟩

/-! ## The host's accesses -/

/-- An accepted command is latched, and nothing of a conversion holds yet (R130). -/
theorem Inv.accept {s : State} (h : Inv s) (hidle : s.seq = .idle) (v : Word) : Inv (accept v s) where
  status :=
    have no_fault : s.bank.status.fault = false := by rw [h.status.fault, hidle]; rfl
    ⟨rfl, no_fault, fun hdone => (by cases hdone), h.status.noFault,
      fun hfault => (by rw [accept_status, Status.accepted_fault, no_fault] at hfault; cases hfault)⟩
  latch := ⟨fun _ => rfl, fun _ => ⟨_, _, _, rfl, rfl, rfl⟩⟩
  convert := fun hconverting => by cases hconverting

/-- Every host write keeps the invariant, and outside IDLE the running command (R52, R352). -/
theorem Inv.hostWrite {s : State} (h : Inv s) (r : HostReg) (v : Word) : Inv (hostWrite r v s) := by
  by_cases hidle : s.seq = .idle
  · by_cases hr : r = .cmd
    · subst hr
      rw [show Machine.hostWrite .cmd v s = Machine.accept v s from if_pos hidle]
      exact h.accept hidle v
    · cases r with
      | cmd => exact absurd rfl hr
      | _ => exact h.congr (h.status.congr (ovr := s.bank.status.ovr) rfl rfl rfl) rfl rfl rfl ⟨rfl, rfl, rfl, rfl⟩
  · obtain ⟨opa, opb, opc, ovr, hbank⟩ := hostWrite_bank_of_not_idle hidle r v
    obtain ⟨hseq, hlatched⟩ := hostWrite_frame_of_not_idle hidle r v
    exact h.congr (h.status.congr (ovr := ovr) hseq (by rw [hbank]) (by rw [hbank])) (by rw [hbank]) hseq hlatched
      (hostWrite_internalsKept r v s)

theorem Inv.hostRead {s : State} (h : Inv s) (r : HostReg) : Inv (hostRead r s) :=
  h.congr (h.status.congr (ovr := s.bank.status.ovr) rfl rfl rfl) rfl rfl rfl ⟨rfl, rfl, rfl, rfl⟩

/-! ## Completion and fault entry -/

/-- A running command has raised no fault (R34). -/
theorem Inv.no_fault {s : State} (h : Inv s) (hbusy : s.seq.busy = true) : s.bank.status.fault = false := by
  rw [h.status.fault, decide_eq_false_iff_not]
  intro hfaulted
  simp [hfaulted, SeqState.busy] at hbusy

/-- A completion of a running command restores the invariant of IDLE (R47). -/
theorem Inv.complete {s s' : State} (h : Inv s) (hbusy : s.seq.busy = true) (hbank : s'.bank = s.bank) (r0 r1 r2 : Word) :
    Inv (complete r0 r1 r2 s') where
  status := by
    have no_fault := h.no_fault hbusy
    constructor <;> simp only [complete_status, complete_seq, Status.completed_busy, Status.completed_fault,
      Status.completed_done, Status.completed_fcode, Status.completed_fop, hbank]
    · rfl
    · exact no_fault
    · exact fun _ => trivial
    · exact h.status.noFault
    · simp [no_fault]
  latch := ⟨fun hidle => absurd rfl hidle, fun hidle => absurd rfl hidle⟩
  convert := fun hconverting => by cases hconverting

/-- A fault of a running command records its code and the OP of the accepted command (R346). -/
theorem Inv.faultEntry {s : State} (h : Inv s) (hbusy : s.seq.busy = true) {code : FaultCode} (hcode : code ≠ .none) :
    Inv (faultEntry code s.latched.lcmd.val s) where
  status := by
    have command := h.latch.lcmd (not_idle_of_busy hbusy)
    constructor <;> simp [hcode, command, SeqState.busy]
  latch := ⟨fun _ => h.latch.lcmd (not_idle_of_busy hbusy), fun _ => h.latch.operands (not_idle_of_busy hbusy)⟩
  convert := fun hconverting => by cases hconverting

/-- A step inside a command: the bank and the latches stay, so only the conversion is left to show. -/
theorem Inv.goOn {s t : State} (h : Inv s) (hbusy : s.seq.busy = true) (hbusy' : t.seq.busy = true)
    (hbank : t.bank = s.bank) (hlatched : t.latched = s.latched)
    (hconvert : ∃ fmt rmode cpol b, ConvertInv fmt rmode cpol b t) : Inv t where
  status := by
    have no_fault := h.no_fault hbusy
    have not_faulted : t.seq ≠ .faulted := by intro hf; simp [hf, SeqState.busy] at hbusy'
    constructor <;> rw [hbank]
    · rw [hbusy', h.status.busy, hbusy]
    · simp [no_fault, not_faulted]
    · intro hdone
      exact absurd (h.status.done hdone) (not_idle_of_busy hbusy)
    · exact h.status.noFault
    · exact h.status.faultCode
  latch := by
    constructor <;> rw [hlatched]
    · rw [hbank]
      exact fun _ => h.latch.lcmd (not_idle_of_busy hbusy)
    · exact fun _ => h.latch.operands (not_idle_of_busy hbusy)
  convert := fun _ => hconvert

/-! ## The search registers (R58) -/

theorem SearchInv.of_scale {fmt : Fmt} {t : State} (hseq : t.seq = .cvScale) : SearchInv fmt t := by
  constructor <;> simp [hseq]

theorem SearchInv.of_init {fmt : Fmt} {t : State} (hseq : t.seq = .cvInit) (hkappa : t.search.kappa = .holds fmt.kappa0)
    (hlidx : t.search.lidx = .holds 0) : SearchInv fmt t := by
  constructor <;> simp [hseq, hkappa, hlidx]

theorem SearchInv.of_up {fmt : Fmt} {t : State} {k : Int} {i : Nat} (hseq : t.seq = .cvUp) (hkappa : t.search.kappa = .holds k)
    (hlidx : t.search.lidx = .holds i) (hk : kMin ≤ k ∧ k ≤ fmt.kMax) (hi : i < fmt.lambdaUp.length) : SearchInv fmt t := by
  constructor <;> simp [hseq, hkappa, hlidx, hk, hi]

theorem SearchInv.of_down {fmt : Fmt} {t : State} {k : Int} {i : Nat} (hseq : t.seq = .cvDown)
    (hkappa : t.search.kappa = .holds k) (hlidx : t.search.lidx = .holds i) (hk : kMin < k ∧ k ≤ fmt.kMax)
    (hi : i < fmt.lambdaDown.length) : SearchInv fmt t := by
  constructor <;> simp [hseq, hkappa, hlidx, hk, hi]

theorem SearchInv.of_settled {fmt : Fmt} {t : State} {k : Int} (hseq : t.seq = .cvSettle ∨ t.seq = .cvTail)
    (hkq : t.search.kq = .holds k) (hk : kMin ≤ k ∧ k ≤ fmt.kMax) : SearchInv fmt t := by
  rcases hseq with hseq | hseq <;> constructor <;> simp [hseq, hkq, hk]

/-- The start of the search lies in the kappa range (R254). -/
theorem kappa0_in_range (fmt : Fmt) : kMin < fmt.kappa0 ∧ fmt.kappa0 ≤ fmt.kMax := by cases fmt <;> decide

/-- A lambda of a list is positive, it is the first of those left, and it is at most one more than the sum of those after it
(R254). -/
structure LambdaAt (lambdas : List Int) (i : Nat) (lam : Int) : Prop where
  index : i < lambdas.length
  positive : 0 < lam
  sum : (lambdas.drop i).sum = lam + (lambdas.drop (i + 1)).sum
  reach : lam ≤ 1 + (lambdas.drop (i + 1)).sum

theorem lambdaAt_iff {lambdas : List Int} {i : Nat} {lam : Int} : LambdaAt lambdas i lam ↔ i < lambdas.length ∧ 0 < lam ∧
    (lambdas.drop i).sum = lam + (lambdas.drop (i + 1)).sum ∧ lam ≤ 1 + (lambdas.drop (i + 1)).sum :=
  ⟨fun h => ⟨h.index, h.positive, h.sum, h.reach⟩, fun ⟨index, positive, sum, reach⟩ => ⟨index, positive, sum, reach⟩⟩

/-- The lists of powers of two down to 1 (R254). -/
theorem lambdas_table (fmt : Fmt) :
    (∀ j : Fin fmt.lambdaUp.length, LambdaAt fmt.lambdaUp j (fmt.lambdaUp.get j)) ∧
      ∀ j : Fin fmt.lambdaDown.length, LambdaAt fmt.lambdaDown j (fmt.lambdaDown.get j) := by
  simp only [lambdaAt_iff]
  cases fmt <;> decide

theorem lambdaUp_at {fmt : Fmt} {i : Nat} (h : i < fmt.lambdaUp.length) :
    ∃ lam, fmt.lambdaUp[i]? = some lam ∧ LambdaAt fmt.lambdaUp i lam :=
  ⟨_, List.getElem?_eq_getElem h, (lambdas_table fmt).1 ⟨i, h⟩⟩

theorem lambdaDown_at {fmt : Fmt} {i : Nat} (h : i < fmt.lambdaDown.length) :
    ∃ lam, fmt.lambdaDown[i]? = some lam ∧ LambdaAt fmt.lambdaDown i lam :=
  ⟨_, List.getElem?_eq_getElem h, (lambdas_table fmt).2 ⟨i, h⟩⟩

/-! ## The values of a conversion -/

/-- The scale values of a pattern with these containment flags (R260). -/
def patternScale (fmt : Fmt) (cl cr : Bool) (b : Word) : ScaleValues :=
  scaleValues fmt cl cr (classifyPattern fmt b).f.toNat (classifyPattern fmt b).e (classifyPattern fmt b).edge

/-- The fields of a conversion's command word and the classification of its pattern are where its steps read them. -/
structure Classifies (fmt : Fmt) (rmode : RMode) (b : Word) (s : State) : Prop where
  lcmdFmt : fmtField s.latched.lcmd.val = fmt
  lcmdMode : rmodeField s.latched.lcmd.val = rmode
  cmdFmt : fmtField s.bank.cmd = fmt
  mode : rmode.isReserved = false
  finite : (classifyPattern fmt b).cls.finiteNonzero = true
  classified : s.cls = classRegs (classifyPattern fmt b)

/-- What a running conversion past CV_SCALE holds beside: the values of its pattern and its policy, a true `MEMO`, and the
search registers of its step. -/
structure Scaled (fmt : Fmt) (rmode : RMode) (b : Word) (cl cr : Bool) (s : State) : Prop extends Classifies fmt rmode b s where
  policy : policyOf rmode (classifyPattern fmt b).sgn (classifyPattern fmt b).f.toNat = some (cl, cr)
  scale : s.scale = scaleRegs (patternScale fmt cl cr b)
  memo : memoConsistent (patternScale fmt cl cr b).z (patternScale fmt cl cr b).delta s.memo
  search : SearchInv fmt s

/-- A conversion of the pattern `b` is running, whatever STATUS and the latched operands say: its steps read neither. -/
structure Runs (fmt : Fmt) (rmode : RMode) (b : Word) (s : State) : Prop where
  converting : s.seq.converting = true
  classifies : Classifies fmt rmode b s
  scaled : s.seq ≠ .cvScale → ∃ cl cr, Scaled fmt rmode b cl cr s

/-- The scale step of a pattern that passed the checks succeeds (R191, R290). -/
theorem scaleOf_pattern {fmt : Fmt} {rmode : RMode} {b : Word} (hmode : rmode.isReserved = false)
    (hfinite : (classifyPattern fmt b).cls.finiteNonzero = true) :
    ∃ cl cr, policyOf rmode (classifyPattern fmt b).sgn (classifyPattern fmt b).f.toNat = some (cl, cr) ∧
      scaleOf fmt rmode (classifyPattern fmt b).sgn (classifyPattern fmt b).f.toNat (classifyPattern fmt b).e
        (classifyPattern fmt b).edge = .ok (patternScale fmt cl cr b) := by
  obtain ⟨cl, cr, hpolicy⟩ := policyOf_exists hmode (classifyPattern fmt b).sgn (classifyPattern fmt b).f.toNat
  exact ⟨cl, cr, hpolicy, scaleOf_eq_scaleValues hpolicy (romIndex_of_finite hfinite) _⟩

/-- A state of the invariant in a conversion runs the conversion of its latched pattern. -/
theorem Inv.runs {fmt : Fmt} {rmode : RMode} {cpol : CasePolicy} {b : Word} {s : State} (h : Inv s)
    (hconvert : ConvertInv fmt rmode cpol b s) (hconverting : s.seq.converting = true) : Runs fmt rmode b s := by
  obtain ⟨hfmt, hrmode, -⟩ := fields_of_decodeCmd_convert hconvert.command
  have hidle : s.seq ≠ .idle := by intro hidle; simp [hidle, SeqState.converting] at hconverting
  have lcmd : s.latched.lcmd.val = s.bank.cmd := by rw [h.latch.lcmd hidle]; rfl
  have classifies : Classifies fmt rmode b s :=
    ⟨by rwa [lcmd], by rwa [lcmd], hfmt, hconvert.mode, hconvert.finite, hconvert.classified⟩
  refine ⟨hconverting, classifies, fun hpast => ?_⟩
  obtain ⟨cl, cr, hpolicy, hok⟩ := scaleOf_pattern hconvert.mode hconvert.finite
  obtain ⟨v, hv, hscale, hmemo⟩ := hconvert.scaled hpast
  obtain rfl : patternScale fmt cl cr b = v := by simpa [hok] using hv
  exact ⟨cl, cr, classifies, hpolicy, hscale, hmemo, hconvert.search⟩

/-- The invariant of a conversion goes with the values of its pattern. -/
theorem ConvertInv.of_scaled {fmt : Fmt} {rmode : RMode} {cpol : CasePolicy} {b : Word} {cl cr : Bool} {s t : State}
    (h : ConvertInv fmt rmode cpol b s) (hbank : t.bank = s.bank) (hlatched : t.latched = s.latched)
    (hscaled : Scaled fmt rmode b cl cr t) : ConvertInv fmt rmode cpol b t where
  command := hbank ▸ h.command
  mode := h.mode
  operand := hlatched ▸ h.operand
  fits := h.fits
  finite := h.finite
  classified := hscaled.classified
  scaled := fun _ => ⟨_, scaleOf_eq_scaleValues hscaled.policy (romIndex_of_finite h.finite) _, hscaled.scale, hscaled.memo⟩
  search := hscaled.search

/-! ## Acceptance in a conversion -/

section
variable {fmt : Fmt} {b : Word}

theorem patternScale_delta (fmt : Fmt) (cl cr : Bool) (b : Word) :
    3 / 4 ≤ (patternScale fmt cl cr b).delta ∧ (patternScale fmt cl cr b).delta < 10 :=
  scaledWidth_bounds _ _

theorem patternScale_z_lower (cl cr : Bool) (hfinite : (classifyPattern fmt b).cls.finiteNonzero = true) :
    3 / 2 ≤ (patternScale fmt cl cr b).z :=
  (scaledUpper_bounds (classifyPattern_finite hfinite).1 (classifyPattern_f_lt fmt b) _).1

theorem patternScale_z_upper (cl cr : Bool) (hfinite : (classifyPattern fmt b).cls.finiteNonzero = true) :
    (patternScale fmt cl cr b).z < 10 ^ (fmt.kMax + 1) :=
  scaledUpper_lt_kMax (classifyPattern_finite hfinite).1 (classifyPattern_f_lt fmt b) _

end

/-- An upward lambda moves exactly where the kappa it tries is accepted (R257, R262). -/
theorem moveUp_spec {fmt : Fmt} {z delta : ℚ} {memo : Memo} (hdelta : 3 / 4 ≤ delta) (hmemo : memoConsistent z delta memo)
    (hz : z < 10 ^ (fmt.kMax + 1)) (cl : Bool) (k lam : Int) :
    ((moveUp fmt z delta cl memo k lam = k + lam ∧ k + lam ≤ fmt.kMax ∧ exactAccept z delta cl (k + lam)) ∨
        (moveUp fmt z delta cl memo k lam = k ∧ ¬exactAccept z delta cl (k + lam))) ∧
      memoConsistent z delta (tryUp fmt z delta cl memo k lam).2 := by
  obtain ⟨haccept, hconsistent⟩ := acceptAt_exact cl (k + lam) hdelta hmemo
  by_cases hguard : k + lam ≤ fmt.kMax
  · have tried : tryUp fmt z delta cl memo k lam = acceptAt z delta cl memo (k + lam) := if_pos hguard
    rw [moveUp, tried]
    refine ⟨?_, hconsistent⟩
    by_cases h : exactAccept z delta cl (k + lam)
    · exact .inl ⟨if_pos (haccept.2 h), hguard, h⟩
    · exact .inr ⟨if_neg (mt haccept.1 h), h⟩
  · have skipped : tryUp fmt z delta cl memo k lam = (false, memo) := if_neg hguard
    rw [moveUp, skipped]
    exact ⟨.inr ⟨if_neg Bool.false_ne_true, not_accept_above hz (by omega)⟩, hmemo⟩

/-- A downward lambda moves exactly where the kappa it tries is rejected: what the guard skips is accepted (R257, R263). -/
theorem moveDown_spec {z delta : ℚ} {memo : Memo} (hdelta : 3 / 4 ≤ delta) (hmemo : memoConsistent z delta memo)
    (hz : 3 / 2 ≤ z) (cl : Bool) (k lam : Int) :
    ((moveDown z delta cl memo k lam = k - lam ∧ kMin < k - lam ∧ ¬exactAccept z delta cl (k - lam)) ∨
        (moveDown z delta cl memo k lam = k ∧ exactAccept z delta cl (k - lam))) ∧
      memoConsistent z delta (tryDown z delta cl memo k lam).2 := by
  obtain ⟨haccept, hconsistent⟩ := acceptAt_exact cl (k - lam) hdelta hmemo
  by_cases hguard : kMin + 1 ≤ k - lam
  · have tried : tryDown z delta cl memo k lam = acceptAt z delta cl memo (k - lam) := if_pos hguard
    rw [moveDown, tried]
    refine ⟨?_, hconsistent⟩
    by_cases h : exactAccept z delta cl (k - lam)
    · exact .inr ⟨if_pos (haccept.2 h), h⟩
    · exact .inl ⟨if_neg (mt haccept.1 h), by omega, h⟩
  · have skipped : tryDown z delta cl memo k lam = (true, memo) := if_neg hguard
    rw [moveDown, skipped]
    exact ⟨.inr ⟨if_pos rfl, acceptanceMonotone z delta cl kMin _ (by omega) (accept_kMin hz hdelta cl)⟩, hmemo⟩

end Sys2Proof.Machine
end

section
/-! PROOFS. The steps of a conversion (44_digit_search.md section 3): from a state of the invariant each goes on to a state of
the invariant with a smaller measure and the loop invariant of the search, or completes. -/

namespace Sys2Proof.Machine

open Sys2Proof

/-! ## The loop invariant in a scaled conversion (R257) -/

theorem SearchBracket.of_init {fmt : Fmt} {z delta : ℚ} {cl cr : Bool} {s : State} (hseq : s.seq = .cvInit) :
    SearchBracket fmt z delta cl cr s := by
  constructor <;> simp [hseq]

theorem SearchBracket.of_up {fmt : Fmt} {z delta : ℚ} {cl cr : Bool} {s : State} {k : Int} {i : Nat} (hseq : s.seq = .cvUp)
    (hkappa : s.search.kappa = .holds k) (hlidx : s.search.lidx = .holds i) (haccept : exactAccept z delta cl k)
    (habove : ∀ kappa : Int, exactAccept z delta cl kappa → kappa ≤ k + (fmt.lambdaUp.drop i).sum) :
    SearchBracket fmt z delta cl cr s := by
  constructor <;> simp only [hseq, hkappa, hlidx, Latch.holds.injEq, reduceCtorEq, or_self, false_implies]
  rintro - _ _ rfl rfl
  exact ⟨haccept, habove⟩

theorem SearchBracket.of_down {fmt : Fmt} {z delta : ℚ} {cl cr : Bool} {s : State} {k : Int} {i : Nat}
    (hseq : s.seq = .cvDown) (hkappa : s.search.kappa = .holds k) (hlidx : s.search.lidx = .holds i)
    (hreject : ¬exactAccept z delta cl k) (hbelow : exactAccept z delta cl (k - 1 - (fmt.lambdaDown.drop i).sum)) :
    SearchBracket fmt z delta cl cr s := by
  constructor <;> simp only [hseq, hkappa, hlidx, Latch.holds.injEq, reduceCtorEq, or_self, false_implies]
  rintro - _ _ rfl rfl
  exact ⟨hreject, hbelow⟩

theorem SearchBracket.of_settle {fmt : Fmt} {z delta : ℚ} {cl cr : Bool} {s : State} {kq : Int} (hseq : s.seq = .cvSettle)
    (hkq : s.search.kq = .holds kq) (haccept : exactAccept z delta cl kq)
    (hgreatest : ∀ kappa : Int, kq < kappa → ¬exactAccept z delta cl kappa) : SearchBracket fmt z delta cl cr s := by
  constructor <;> simp only [hseq, hkq, Latch.holds.injEq, reduceCtorEq, or_false, false_implies, forall_eq', forall_const]
  exact ⟨haccept, hgreatest⟩

theorem SearchBracket.of_tail {fmt : Fmt} {z delta : ℚ} {cl cr : Bool} {s : State} {kq : Int} (hseq : s.seq = .cvTail)
    (hkq : s.search.kq = .holds kq) (haccept : exactAccept z delta cl kq)
    (hgreatest : ∀ kappa : Int, kq < kappa → ¬exactAccept z delta cl kappa) (hcr : cr = false)
    (hedge : remainder z kq = 0) : SearchBracket fmt z delta cl cr s := by
  constructor <;> simp only [hseq, hkq, Latch.holds.injEq, reduceCtorEq, or_true, false_implies, forall_eq', forall_const]
  · exact ⟨haccept, hgreatest⟩
  · exact ⟨hcr, hedge⟩

section
variable {fmt : Fmt} {rmode : RMode} {b : Word} {cl cr : Bool} {s t : State}

/-- In a scaled conversion the loop invariant speaks of the values of the pattern. -/
theorem Scaled.bracket_iff (h : Scaled fmt rmode b cl cr s) (hconverting : s.seq.converting = true)
    (hpast : s.seq ≠ .cvScale) :
    BracketInv s ↔ SearchBracket fmt (patternScale fmt cl cr b).z (patternScale fmt cl cr b).delta cl cr s := by
  have registers : s.scale = scaleRegs (patternScale fmt cl cr b) := h.scale
  constructor
  · intro hbracket
    have := hbracket hconverting hpast (patternScale fmt cl cr b).z (patternScale fmt cl cr b).delta cl cr
      (by rw [registers]; rfl) (by rw [registers]; rfl) (by rw [registers]; rfl) (by rw [registers]; rfl)
    rwa [h.cmdFmt] at this
  · intro hbracket _ _ z delta cl' cr' hz hdelta hcl hcr
    rw [registers] at hz hdelta hcl hcr
    cases hz
    cases hdelta
    cases hcl
    cases hcr
    rwa [h.cmdFmt]

/-- A step of the search keeps the values of the conversion. -/
theorem Scaled.next (h : Scaled fmt rmode b cl cr s) (hbank : t.bank = s.bank) (hlatched : t.latched = s.latched)
    (hcls : t.cls = s.cls) (hscale : t.scale = s.scale)
    (hmemo : memoConsistent (patternScale fmt cl cr b).z (patternScale fmt cl cr b).delta t.memo)
    (hsearch : SearchInv fmt t) : Scaled fmt rmode b cl cr t where
  lcmdFmt := hlatched ▸ h.lcmdFmt
  lcmdMode := hlatched ▸ h.lcmdMode
  cmdFmt := hbank ▸ h.cmdFmt
  mode := h.mode
  finite := h.finite
  classified := hcls ▸ h.classified
  policy := h.policy
  scale := hscale ▸ h.scale
  memo := hmemo
  search := hsearch

end

/-! ## The measure in a conversion (R266) -/

theorem stepsLeft_of_init {s : State} (hseq : s.seq = .cvInit) :
    stepsLeft s = Fmt.searchSteps (fmtField s.bank.cmd) + 3 := by
  simp only [stepsLeft, hseq]

theorem stepsLeft_of_up {s : State} {i : Nat} (hseq : s.seq = .cvUp) (hlidx : s.search.lidx = .holds i) :
    stepsLeft s = lambdasLeft (fmtField s.bank.cmd).lambdaUp i + 2 := by
  simp only [stepsLeft, hseq, hlidx, Latch.val_holds]

theorem stepsLeft_of_down {s : State} {i : Nat} (hseq : s.seq = .cvDown) (hlidx : s.search.lidx = .holds i) :
    stepsLeft s = lambdasLeft (fmtField s.bank.cmd).lambdaDown i + 2 := by
  simp only [stepsLeft, hseq, hlidx, Latch.val_holds]

theorem stepsLeft_of_settle {s : State} (hseq : s.seq = .cvSettle) : stepsLeft s = 2 := by simp only [stepsLeft, hseq]

/-- Either phase takes at most the steps of the longer list (R266). -/
theorem lambdas_le_searchSteps (fmt : Fmt) :
    fmt.lambdaUp.length ≤ Fmt.searchSteps fmt ∧ fmt.lambdaDown.length ≤ Fmt.searchSteps fmt :=
  ⟨le_max_left .., le_max_right ..⟩

/-! ## What a step of a conversion does -/

/-- The conversion of `s` goes on in `t`: the values are those of the pattern, the measure is smaller, and the loop invariant
of the search is kept. -/
structure GoesOn (fmt : Fmt) (rmode : RMode) (b : Word) (s t : State) : Prop where
  scaled : ∃ cl cr, Scaled fmt rmode b cl cr t
  converting : t.seq.converting = true
  past : t.seq ≠ .cvScale
  bank : t.bank = s.bank
  latched : t.latched = s.latched
  cls : t.cls = s.cls
  scale : s.seq ≠ .cvScale → t.scale = s.scale
  env : t.env = s.env
  measure : stepsLeft t < stepsLeft s
  bracket : BracketInv s → BracketInv t

section
variable {fmt : Fmt} {rmode : RMode} {b : Word} {cl cr : Bool} {s : State}

/-- CV_SCALE forms the values of the pattern and starts the search at KAPPA0 (R260). -/
theorem cvScale_step (h : Classifies fmt rmode b s) (hseq : s.seq = .cvScale) :
    ∃ t, sequencerStep s = .next t ∧ GoesOn fmt rmode b s t ∧ t.seq = .cvInit := by
  obtain ⟨cl, cr, hpolicy, hok⟩ := scaleOf_pattern h.mode h.finite
  have values : scaleOfRegisters s.latched s.cls = .ok (patternScale fmt cl cr b) := by
    rw [scaleOfRegisters, h.lcmdFmt, h.lcmdMode, h.classified]
    exact hok
  have scaled : Scaled fmt rmode b cl cr (scaled (patternScale fmt cl cr b) s) := by
    obtain ⟨lcmdFmt, lcmdMode, cmdFmt, mode, finite, classified⟩ := h
    have search : SearchInv fmt (Machine.scaled (patternScale fmt cl cr b) s) :=
      .of_init rfl (congrArg (fun f => Latch.holds (Fmt.kappa0 f)) lcmdFmt) rfl
    exact ⟨⟨lcmdFmt, lcmdMode, cmdFmt, mode, finite, classified⟩, hpolicy, rfl, .inl rfl, search⟩
  refine ⟨_, (sequencerStep_of_cvScale hseq).trans (cvScale_of_ok values), ?_, rfl⟩
  refine ⟨⟨cl, cr, scaled⟩, rfl, nofun, rfl, rfl, rfl, fun h => absurd hseq h, rfl, ?_, fun _ => ?_⟩
  · simp only [stepsLeft, hseq]
    exact Nat.lt_succ_self _
  · exact (scaled.bracket_iff rfl nofun).2 (.of_init rfl)

/-- CV_INIT goes up where KAPPA0 is accepted and down where it is not (R261). -/
theorem cvInit_step (h : Scaled fmt rmode b cl cr s) (hseq : s.seq = .cvInit) :
    ∃ t, sequencerStep s = .next t ∧ GoesOn fmt rmode b s t ∧ (t.seq = .cvUp ∨ t.seq = .cvDown) := by
  obtain ⟨hkappa, hlidx⟩ := h.search.init hseq
  obtain ⟨low, high⟩ := kappa0_in_range fmt
  have delta := (patternScale_delta fmt cl cr b).1
  have z_lower := patternScale_z_lower cl cr h.finite
  have z_upper := patternScale_z_upper cl cr h.finite
  obtain ⟨haccept, hmemo⟩ := acceptAt_exact cl fmt.kappa0 delta h.memo
  have registers : cvInit s = .next (initialised (acceptAt (patternScale fmt cl cr b).z (patternScale fmt cl cr b).delta cl
      s.memo fmt.kappa0) s) := by
    rw [cvInit_eq, h.scale, hkappa]
    rfl
  refine ⟨_, (sequencerStep_of_cvInit hseq).trans registers, ?_⟩
  generalize acceptAt (patternScale fmt cl cr b).z (patternScale fmt cl cr b).delta cl s.memo fmt.kappa0 = a at haccept hmemo
  obtain ⟨up, memo⟩ := a
  cases up with
  | true =>
    have scaled : Scaled fmt rmode b cl cr (initialised (true, memo) s) :=
      h.next rfl rfl rfl rfl hmemo (.of_up rfl hkappa hlidx ⟨low.le, high⟩ (by cases fmt <;> decide))
    refine ⟨⟨⟨cl, cr, scaled⟩, rfl, nofun, rfl, rfl, rfl, fun _ => rfl, rfl, ?_, fun _ => ?_⟩, .inl rfl⟩
    · rw [stepsLeft_of_init hseq, stepsLeft_of_up (s := initialised (true, memo) s) rfl hlidx]
      have := (lambdas_le_searchSteps (fmtField s.bank.cmd)).1
      exact Nat.lt_succ_of_le (Nat.add_le_add_right ((lambdasLeft_le _ 0).trans this) 2)
    · refine (scaled.bracket_iff rfl nofun).2 (.of_up rfl hkappa hlidx (haccept.1 rfl) fun kappa hk => ?_)
      have bound : fmt.kMax ≤ fmt.kappa0 + (fmt.lambdaUp.drop 0).sum := by cases fmt <;> decide
      by_contra hlt
      exact not_accept_above z_upper (by omega) hk
  | false =>
    have scaled : Scaled fmt rmode b cl cr (initialised (false, memo) s) :=
      h.next rfl rfl rfl rfl hmemo (.of_down rfl hkappa hlidx ⟨low, high⟩ (by cases fmt <;> decide))
    refine ⟨⟨⟨cl, cr, scaled⟩, rfl, nofun, rfl, rfl, rfl, fun _ => rfl, rfl, ?_, fun _ => ?_⟩, .inr rfl⟩
    · rw [stepsLeft_of_init hseq, stepsLeft_of_down (s := initialised (false, memo) s) rfl hlidx]
      have := (lambdas_le_searchSteps (fmtField s.bank.cmd)).2
      exact Nat.lt_succ_of_le (Nat.add_le_add_right ((lambdasLeft_le _ 0).trans this) 2)
    · refine (scaled.bracket_iff rfl nofun).2 (.of_down rfl hkappa hlidx (fun hk => by simpa using haccept.2 hk) ?_)
      have bound : fmt.kappa0 - 1 - (fmt.lambdaDown.drop 0).sum ≤ kMin := by cases fmt <;> decide
      exact acceptanceMonotone _ _ _ kMin _ bound (accept_kMin z_lower delta cl)

/-- CV_UP tries one lambda, and ends with the kappa it leaves (R262). -/
theorem cvUp_registers (h : Scaled fmt rmode b cl cr s) (hseq : s.seq = .cvUp) :
    ∃ (k k' lam : Int) (i : Nat) (memo : Memo), s.search.kappa = .holds k ∧ s.search.lidx = .holds i ∧
      (kMin ≤ k ∧ k ≤ fmt.kMax) ∧ LambdaAt fmt.lambdaUp i lam ∧
      ((k' = k + lam ∧ k + lam ≤ fmt.kMax ∧
          exactAccept (patternScale fmt cl cr b).z (patternScale fmt cl cr b).delta cl (k + lam)) ∨
        (k' = k ∧ ¬exactAccept (patternScale fmt cl cr b).z (patternScale fmt cl cr b).delta cl (k + lam))) ∧
      memoConsistent (patternScale fmt cl cr b).z (patternScale fmt cl cr b).delta memo ∧
      sequencerStep s = .next (finishLambda fmt.lambdaUp .cvUp k' i k' memo s) := by
  obtain ⟨k, i, hkappa, hlidx, k_lower, k_upper, hi⟩ := h.search.up hseq
  obtain ⟨lam, hlam, hat⟩ := lambdaUp_at hi
  have hfmt : fmtField s.latched.lcmd.val = fmt := h.lcmdFmt
  obtain ⟨hmove, hmemo⟩ := moveUp_spec (patternScale_delta fmt cl cr b).1 h.memo
    (patternScale_z_upper cl cr h.finite) cl k lam
  have step := cvUp_of_some (s := s) (lam := lam) (by rw [hfmt, hlidx]; exact hlam)
  simp only [hfmt, hkappa, hlidx, h.scale, scaleRegs, Latch.val_holds] at step
  exact ⟨k, _, lam, i, _, hkappa, hlidx, ⟨k_lower, k_upper⟩, hat, hmove, hmemo, (sequencerStep_of_cvUp hseq).trans step⟩

/-- CV_DOWN tries one lambda, and ends with the kappa it leaves (R263). -/
theorem cvDown_registers (h : Scaled fmt rmode b cl cr s) (hseq : s.seq = .cvDown) :
    ∃ (k k' lam : Int) (i : Nat) (memo : Memo), s.search.kappa = .holds k ∧ s.search.lidx = .holds i ∧
      (kMin < k ∧ k ≤ fmt.kMax) ∧ LambdaAt fmt.lambdaDown i lam ∧
      ((k' = k - lam ∧ kMin < k - lam ∧
          ¬exactAccept (patternScale fmt cl cr b).z (patternScale fmt cl cr b).delta cl (k - lam)) ∨
        (k' = k ∧ exactAccept (patternScale fmt cl cr b).z (patternScale fmt cl cr b).delta cl (k - lam))) ∧
      memoConsistent (patternScale fmt cl cr b).z (patternScale fmt cl cr b).delta memo ∧
      sequencerStep s = .next (finishLambda fmt.lambdaDown .cvDown k' i (k' - 1) memo s) := by
  obtain ⟨k, i, hkappa, hlidx, k_lower, k_upper, hi⟩ := h.search.down hseq
  obtain ⟨lam, hlam, hat⟩ := lambdaDown_at hi
  have hfmt : fmtField s.latched.lcmd.val = fmt := h.lcmdFmt
  obtain ⟨hmove, hmemo⟩ := moveDown_spec (patternScale_delta fmt cl cr b).1 h.memo
    (patternScale_z_lower cl cr h.finite) cl k lam
  have step := cvDown_of_some (s := s) (lam := lam) (by rw [hfmt, hlidx]; exact hlam)
  simp only [hfmt, hkappa, hlidx, h.scale, scaleRegs, Latch.val_holds] at step
  exact ⟨k, _, lam, i, _, hkappa, hlidx, ⟨k_lower, k_upper⟩, hat, hmove, hmemo, (sequencerStep_of_cvDown hseq).trans step⟩

/-- In the upward phase kappa stays accepted, and what is accepted is within the lambdas left (R257). -/
theorem cvUp_step (h : Scaled fmt rmode b cl cr s) (hseq : s.seq = .cvUp) :
    ∃ t, sequencerStep s = .next t ∧ GoesOn fmt rmode b s t ∧ (t.seq = .cvUp ∨ t.seq = .cvSettle) := by
  obtain ⟨k, k', lam, i, memo, hkappa, hlidx, ⟨k_lower, k_upper⟩, hat, hmove, hmemo, step⟩ := cvUp_registers h hseq
  refine ⟨_, step, ?_⟩
  obtain ⟨hbank, hlatched, hcls, hscale, henv, hmemo', hkappa', hlidx', -, hlast, hmore⟩ := finishLambda_frame
    fmt.lambdaUp .cvUp k' i k' memo s
  rw [← hmemo'] at hmemo
  generalize finishLambda fmt.lambdaUp .cvUp k' i k' memo s = t at *
  have range : kMin ≤ k' ∧ k' ≤ fmt.kMax := by
    have := hat.positive
    rcases hmove with ⟨rfl, hle, -⟩ | ⟨rfl, -⟩ <;> omega
  have left : stepsLeft s = lambdasLeft fmt.lambdaUp i + 2 := by
    rw [stepsLeft_of_up hseq hlidx, h.cmdFmt]
  have search (hbracket : BracketInv s) :
      exactAccept (patternScale fmt cl cr b).z (patternScale fmt cl cr b).delta cl k' ∧
        ∀ kappa : Int, exactAccept (patternScale fmt cl cr b).z (patternScale fmt cl cr b).delta cl kappa →
          kappa ≤ k' + (fmt.lambdaUp.drop (i + 1)).sum := by
    obtain ⟨haccept, habove⟩ := ((h.bracket_iff (by rw [hseq]; rfl) (by simp [hseq])).1 hbracket).up hseq k i hkappa hlidx
    have sum := hat.sum
    have reach := hat.reach
    rcases hmove with ⟨rfl, -, hmoved⟩ | ⟨rfl, hrejected⟩
    · exact ⟨hmoved, fun kappa hk => by have := habove kappa hk; omega⟩
    · refine ⟨haccept, fun kappa hk => ?_⟩
      by_contra hlt
      exact hrejected (acceptanceMonotone _ _ _ kappa _ (by omega) hk)
  by_cases hi' : i + 1 = fmt.lambdaUp.length
  · obtain ⟨hseq', hkq⟩ := hlast hi'
    have scaled : Scaled fmt rmode b cl cr t :=
      h.next hbank hlatched hcls hscale hmemo (.of_settled (.inl hseq') hkq range)
    refine ⟨⟨⟨cl, cr, scaled⟩, by rw [hseq']; rfl, by simp [hseq'], hbank, hlatched, hcls, fun _ => hscale, henv, ?_,
      fun hbracket => ?_⟩, .inr hseq'⟩
    · have one_left := lambdasLeft_succ hat.index
      rw [left, stepsLeft_of_settle hseq']
      omega
    · obtain ⟨haccept, habove⟩ := search hbracket
      refine (scaled.bracket_iff (by rw [hseq']; rfl) (by simp [hseq'])).2 (.of_settle hseq' hkq haccept
        fun kappa hlt hk => ?_)
      have bound := habove kappa hk
      rw [hi', List.drop_length, List.sum_nil] at bound
      omega
  · obtain ⟨hseq', -⟩ := hmore hi'
    have scaled : Scaled fmt rmode b cl cr t :=
      h.next hbank hlatched hcls hscale hmemo (.of_up hseq' hkappa' hlidx' range (by have := hat.index; omega))
    refine ⟨⟨⟨cl, cr, scaled⟩, by rw [hseq']; rfl, by simp [hseq'], hbank, hlatched, hcls, fun _ => hscale, henv, ?_,
      fun hbracket => ?_⟩, .inl hseq'⟩
    · have one_left := lambdasLeft_succ hat.index
      rw [left, stepsLeft_of_up hseq' hlidx', hbank, h.cmdFmt]
      omega
    · obtain ⟨haccept, habove⟩ := search hbracket
      exact (scaled.bracket_iff (by rw [hseq']; rfl) (by simp [hseq'])).2 (.of_up hseq' hkappa' hlidx' haccept habove)

/-- In the downward phase kappa stays rejected, and what lies below the lambdas left is accepted (R257). -/
theorem cvDown_step (h : Scaled fmt rmode b cl cr s) (hseq : s.seq = .cvDown) :
    ∃ t, sequencerStep s = .next t ∧ GoesOn fmt rmode b s t ∧ (t.seq = .cvDown ∨ t.seq = .cvSettle) := by
  obtain ⟨k, k', lam, i, memo, hkappa, hlidx, ⟨k_lower, k_upper⟩, hat, hmove, hmemo, step⟩ := cvDown_registers h hseq
  refine ⟨_, step, ?_⟩
  obtain ⟨hbank, hlatched, hcls, hscale, henv, hmemo', hkappa', hlidx', -, hlast, hmore⟩ := finishLambda_frame
    fmt.lambdaDown .cvDown k' i (k' - 1) memo s
  rw [← hmemo'] at hmemo
  generalize finishLambda fmt.lambdaDown .cvDown k' i (k' - 1) memo s = t at *
  have range : kMin < k' ∧ k' ≤ fmt.kMax := by
    have := hat.positive
    rcases hmove with ⟨rfl, hle, -⟩ | ⟨rfl, -⟩ <;> omega
  have left : stepsLeft s = lambdasLeft fmt.lambdaDown i + 2 := by
    rw [stepsLeft_of_down hseq hlidx, h.cmdFmt]
  have search (hbracket : BracketInv s) :
      ¬exactAccept (patternScale fmt cl cr b).z (patternScale fmt cl cr b).delta cl k' ∧
        exactAccept (patternScale fmt cl cr b).z (patternScale fmt cl cr b).delta cl
          (k' - 1 - (fmt.lambdaDown.drop (i + 1)).sum) := by
    obtain ⟨hreject, hbelow⟩ := ((h.bracket_iff (by rw [hseq]; rfl) (by simp [hseq])).1 hbracket).down hseq k i hkappa hlidx
    have sum := hat.sum
    have reach := hat.reach
    rcases hmove with ⟨rfl, -, hmoved⟩ | ⟨rfl, haccepted⟩
    · exact ⟨hmoved, acceptanceMonotone _ _ _ _ _ (by omega) hbelow⟩
    · exact ⟨hreject, acceptanceMonotone _ _ _ _ _ (by omega) haccepted⟩
  by_cases hi' : i + 1 = fmt.lambdaDown.length
  · obtain ⟨hseq', hkq⟩ := hlast hi'
    have scaled : Scaled fmt rmode b cl cr t :=
      h.next hbank hlatched hcls hscale hmemo (.of_settled (.inl hseq') hkq (by omega))
    refine ⟨⟨⟨cl, cr, scaled⟩, by rw [hseq']; rfl, by simp [hseq'], hbank, hlatched, hcls, fun _ => hscale, henv, ?_,
      fun hbracket => ?_⟩, .inr hseq'⟩
    · have one_left := lambdasLeft_succ hat.index
      rw [left, stepsLeft_of_settle hseq']
      omega
    · obtain ⟨hreject, hbelow⟩ := search hbracket
      rw [hi', List.drop_length, List.sum_nil, sub_zero] at hbelow
      exact (scaled.bracket_iff (by rw [hseq']; rfl) (by simp [hseq'])).2 (.of_settle hseq' hkq hbelow
        fun kappa hlt hk => hreject (acceptanceMonotone _ _ _ kappa _ (by omega) hk))
  · obtain ⟨hseq', -⟩ := hmore hi'
    have scaled : Scaled fmt rmode b cl cr t :=
      h.next hbank hlatched hcls hscale hmemo (.of_down hseq' hkappa' hlidx' range (by have := hat.index; omega))
    refine ⟨⟨⟨cl, cr, scaled⟩, by rw [hseq']; rfl, by simp [hseq'], hbank, hlatched, hcls, fun _ => hscale, henv, ?_,
      fun hbracket => ?_⟩, .inl hseq'⟩
    · have one_left := lambdasLeft_succ hat.index
      rw [left, stepsLeft_of_down hseq' hlidx', hbank, h.cmdFmt]
      omega
    · obtain ⟨hreject, hbelow⟩ := search hbracket
      exact (scaled.bracket_iff (by rw [hseq']; rfl) (by simp [hseq'])).2 (.of_down hseq' hkappa' hlidx' hreject hbelow)

/-- CV_SETTLE completes, or goes on to the tail where the candidate is the open right edge (R264). -/
theorem cvSettle_step (h : Scaled fmt rmode b cl cr s) (hseq : s.seq = .cvSettle) :
    ∃ kq, s.search.kq = .holds kq ∧
      ((∃ t, sequencerStep s = .next t ∧ GoesOn fmt rmode b s t ∧ t.seq = .cvTail) ∨
        ((cr = true ∨ remainder (patternScale fmt cl cr b).z kq ≠ 0) ∧
          sequencerStep s = .next (convertCompletes (candidate (patternScale fmt cl cr b).z kq)
            (kq + (patternScale fmt cl cr b).k0) (classifyPattern fmt b).sgn s))) := by
  obtain ⟨kq, hkq, range⟩ := h.search.settled (.inl hseq)
  refine ⟨kq, hkq, ?_⟩
  have hsgn : s.cls.sgn.val = (classifyPattern fmt b).sgn := by rw [h.classified]; rfl
  rw [sequencerStep_of_cvSettle hseq]
  rcases settle_branch s with ⟨hcr, hedge⟩ | hinside
  · refine .inl ⟨_, cvSettle_of_edge hcr hedge, ?_, rfl⟩
    rw [h.scale, hkq] at hedge
    rw [h.scale] at hcr
    have scaled : Scaled fmt rmode b cl cr
        { writeSig (BitVec.ofInt 64 (candidate s.scale.z.val s.search.kq.val)) s with seq := .cvTail } :=
      h.next rfl rfl rfl rfl h.memo (.of_settled (.inr rfl) hkq range)
    refine ⟨⟨cl, cr, scaled⟩, rfl, nofun, rfl, rfl, rfl, fun _ => rfl, rfl, ?_, fun hbracket => ?_⟩
    · rw [stepsLeft_of_settle hseq]
      exact Nat.one_lt_two
    · obtain ⟨haccept, hgreatest⟩ :=
        ((h.bracket_iff (by rw [hseq]; rfl) (by simp [hseq])).1 hbracket).settled (.inl hseq) kq hkq
      exact (scaled.bracket_iff rfl nofun).2 (.of_tail rfl hkq haccept hgreatest hcr hedge)
  · refine .inr ⟨?_, ?_⟩
    · rwa [h.scale, hkq] at hinside
    · rw [cvSettle_of_inside hinside, hsgn, h.scale, hkq]
      rfl

/-- CV_TAIL completes with the greatest multiple below the open right edge (R265). -/
theorem cvTail_step (h : Scaled fmt rmode b cl cr s) (hseq : s.seq = .cvTail) :
    ∃ kq, s.search.kq = .holds kq ∧ sequencerStep s = .next (convertCompletes
      (candidate (patternScale fmt cl cr b).z (min kq (tailLimit (patternScale fmt cl cr b).delta cl)) - 1)
      (min kq (tailLimit (patternScale fmt cl cr b).delta cl) + (patternScale fmt cl cr b).k0) (classifyPattern fmt b).sgn
      s) := by
  obtain ⟨kq, hkq, -⟩ := h.search.settled (.inr hseq)
  have hsgn : s.cls.sgn.val = (classifyPattern fmt b).sgn := by rw [h.classified]; rfl
  exact ⟨kq, hkq, by rw [sequencerStep_of_cvTail hseq, cvTail_eq, hsgn, h.scale, hkq]; rfl⟩

/-- A step of a conversion goes on in the conversion, or completes it. -/
inductive ConvertStep (fmt : Fmt) (rmode : RMode) (b : Word) (s : State) : Prop where
  | goesOn (t : State) (h : sequencerStep s = .next t) (hgoes : GoesOn fmt rmode b s t)
  | completes (n x : Int) (h : sequencerStep s = .next (convertCompletes n x (classifyPattern fmt b).sgn s))
      (hseq : s.seq = .cvSettle ∨ s.seq = .cvTail)

theorem GoesOn.runs (h : GoesOn fmt rmode b s t) : Runs fmt rmode b t where
  converting := h.converting
  classifies := by obtain ⟨cl, cr, hscaled⟩ := h.scaled; exact hscaled.toClassifies
  scaled := fun _ => h.scaled

/-- A step of a running conversion goes on or completes. -/
theorem convert_step (h : Runs fmt rmode b s) : ConvertStep fmt rmode b s := by
  have hconverting := h.converting
  by_cases hscale : s.seq = .cvScale
  · obtain ⟨t, h, hgoes, -⟩ := cvScale_step h.classifies hscale
    exact .goesOn t h hgoes
  · obtain ⟨cl, cr, hscaled⟩ := h.scaled hscale
    cases hseq : s.seq with
    | cvInit =>
      obtain ⟨t, h, hgoes, -⟩ := cvInit_step hscaled hseq
      exact .goesOn t h hgoes
    | cvUp =>
      obtain ⟨t, h, hgoes, -⟩ := cvUp_step hscaled hseq
      exact .goesOn t h hgoes
    | cvDown =>
      obtain ⟨t, h, hgoes, -⟩ := cvDown_step hscaled hseq
      exact .goesOn t h hgoes
    | cvSettle =>
      obtain ⟨kq, -, ⟨t, h, hgoes, -⟩ | ⟨-, h⟩⟩ := cvSettle_step hscaled hseq
      · exact .goesOn t h hgoes
      · exact .completes _ _ h (.inl hseq)
    | cvTail =>
      obtain ⟨kq, -, h⟩ := cvTail_step hscaled hseq
      exact .completes _ _ h (.inr hseq)
    | cvScale => exact absurd hseq hscale
    | idle => simp [hseq, SeqState.converting] at hconverting
    | exec => simp [hseq, SeqState.converting] at hconverting
    | faulted => simp [hseq, SeqState.converting] at hconverting

end

end Sys2Proof.Machine
end

section
/-! PROOFS. What every step keeps (10_state.md, 44_digit_search.md R257, 70_reset_and_hazards.md R397): from a state of the
invariant the sequencer's step always goes on, to a state of the invariant with a smaller measure and the loop invariant of the
search; and the host's accesses keep all three. -/

namespace Sys2Proof.Machine

open Sys2Proof

/-! ## The measure (R397) -/

theorem commandSteps_pos (w : Word) : 0 < commandSteps w := by
  unfold commandSteps
  split <;> omega

/-- The measure is 0 exactly where no command runs. -/
theorem stepsLeft_eq_zero_iff (s : State) : stepsLeft s = 0 ↔ s.seq.busy = false := by
  cases hseq : s.seq with
  | exec => simp [stepsLeft, hseq, SeqState.busy, (commandSteps_pos s.bank.cmd).ne']
  | _ => simp [stepsLeft, hseq, SeqState.busy]

theorem stepsLeft_pos {s : State} (h : s.seq.busy = true) : 0 < stepsLeft s :=
  Nat.pos_of_ne_zero fun hzero => by simp [(stepsLeft_eq_zero_iff s).1 hzero] at h

theorem stepsLeft_of_exec {s : State} (hseq : s.seq = .exec) : stepsLeft s = commandSteps s.bank.cmd := by
  simp only [stepsLeft, hseq]

/-- Four lambdas upward or downward in binary64, three in binary32 (R254). -/
theorem searchSteps_le (fmt : Fmt) : Fmt.searchSteps fmt ≤ 4 ∧ (fmt = .binary32 → Fmt.searchSteps fmt ≤ 3) := by
  cases fmt <;> decide

theorem commandSteps_le (w : Word) : commandSteps w ≤ Fmt.searchSteps (fmtField w) + 5 := by
  by_cases h : ∃ fmt rmode cpol, decodeCmd w = .ok (.convert fmt rmode cpol)
  · obtain ⟨fmt, rmode, cpol, h⟩ := h
    rw [commandSteps_convert h, (fields_of_decodeCmd_convert h).1]
  · push Not at h
    rw [commandSteps_other h]
    omega

/-- The measure is at most the steps of the longest conversion of the command's format (R266). -/
theorem stepsLeft_le (s : State) : stepsLeft s ≤ Fmt.searchSteps (fmtField s.bank.cmd) + 5 := by
  obtain ⟨up, down⟩ := lambdas_le_searchSteps (fmtField s.bank.cmd)
  have up_left := lambdasLeft_le (fmtField s.bank.cmd).lambdaUp s.search.lidx.val
  have down_left := lambdasLeft_le (fmtField s.bank.cmd).lambdaDown s.search.lidx.val
  have command := commandSteps_le s.bank.cmd
  cases hseq : s.seq <;> simp only [stepsLeft, hseq] <;> omega

/-! ## The sequencer's step -/

theorem busy_of_converting {s : State} (h : s.seq.converting = true) : s.seq.busy = true := by
  cases hseq : s.seq <;> simp [hseq, SeqState.converting, SeqState.busy] at h ⊢

/-- Where no command runs, none is being converted. -/
theorem not_converting_of_not_busy {s : State} (h : s.seq.busy = false) : s.seq.converting = false := by
  by_contra hc
  rw [busy_of_converting (by simpa using hc)] at h
  cases h

/-- From `s` the sequencer gets to `t`: the invariant holds, the measure is smaller if a command ran, and the loop invariant of
the search is kept. -/
structure Advances (s t : State) : Prop where
  inv : Inv t
  measure : s.seq.busy = true → stepsLeft t < stepsLeft s
  bracket : BracketInv s → BracketInv t

/-- A step that ends the command. -/
theorem Advances.ends {s t : State} (h : Inv t) (hbusy : s.seq.busy = true) (hbusy' : t.seq.busy = false) : Advances s t where
  inv := h
  measure := fun _ => by rw [(stepsLeft_eq_zero_iff t).2 hbusy']; exact stepsLeft_pos hbusy
  bracket := fun _ => .of_not_converting (not_converting_of_not_busy hbusy')

/-- The EXEC step of a CONVERT that passes its checks leaves a conversion with its pattern classified (R325). -/
theorem Advances.classify {s : State} (h : Inv s) (hseq : s.seq = .exec) {fmt : Fmt} {rmode : RMode} {cpol : CasePolicy}
    (hconverts : Converts s.latched fmt rmode cpol) :
    Advances s { writeClass (classifyPattern fmt s.latched.la.val) s with seq := .cvScale } := by
  obtain ⟨command, mode, fits, finite⟩ := hconverts
  have hidle : s.seq ≠ .idle := by simp [hseq]
  obtain ⟨a, -, -, ha, -⟩ := h.latch.operands hidle
  rw [h.latch.lcmd hidle, Latch.val_holds] at command
  refine ⟨?_, fun _ => ?_, fun _ _ hpast => absurd rfl hpast⟩
  · refine h.goOn (by rw [hseq]; rfl) rfl rfl rfl ⟨fmt, rmode, cpol, s.latched.la.val, ?_⟩
    exact ⟨command, mode, by simp [ha], fits, finite, rfl, fun hpast => absurd rfl hpast, .of_scale rfl⟩
  · rw [stepsLeft_of_exec hseq, commandSteps_convert command]
    simp only [stepsLeft, writeClass_bank, (fields_of_decodeCmd_convert command).1]
    omega

/-- The EXEC step, by its effect. -/
theorem execStep_advances {s : State} (h : Inv s) (hseq : s.seq = .exec) :
    ∃ t, execStep s = .next t ∧ Advances s t := by
  have hbusy : s.seq.busy = true := by rw [hseq]; rfl
  obtain ⟨E, hlawful, happly⟩ := execStep_effect s.latched
  refine ⟨_, happly s rfl, ?_⟩
  cases E with
  | fault code => exact .ends (h.faultEntry hbusy hlawful) hbusy rfl
  | complete r0 r1 r2 => exact .ends (h.complete hbusy rfl r0 r1 r2) hbusy rfl
  | classify c =>
    obtain ⟨fmt, rmode, cpol, hconverts, rfl⟩ := hlawful
    exact .classify h hseq hconverts
  | draw c =>
    exact .ends (h.complete (s' := { writeClass c s with env := { s.env with draws := s.env.draws + 3 } }) hbusy rfl _ _ _)
      hbusy rfl
  | compare c v kappa =>
    exact .ends (h.complete (s' := { writeScale v (writeClass c s) with memo := _ }) hbusy rfl _ _ _) hbusy rfl

/-- A step inside a conversion. -/
theorem GoesOn.advances {fmt : Fmt} {rmode : RMode} {cpol : CasePolicy} {b : Word} {s t : State}
    (h : GoesOn fmt rmode b s t) (hinv : Inv s) (hconvert : ConvertInv fmt rmode cpol b s) (hbusy : s.seq.busy = true) :
    Advances s t := by
  obtain ⟨cl, cr, hscaled⟩ := h.scaled
  exact ⟨hinv.goOn hbusy (busy_of_converting h.converting) h.bank h.latched
    ⟨_, _, _, _, hconvert.of_scaled h.bank h.latched hscaled⟩, fun _ => h.measure, h.bracket⟩

/-- From every state of the invariant the sequencer's step goes on. -/
theorem sequencerStep_advances {s : State} (h : Inv s) : ∃ t, sequencerStep s = .next t ∧ Advances s t := by
  have rests (hbusy : s.seq.busy = false) : Advances s s := ⟨h, fun hb => by simp [hbusy] at hb, id⟩
  by_cases hconverting : s.seq.converting = true
  · obtain ⟨fmt, rmode, cpol, b, hconvert⟩ := h.convert hconverting
    cases convert_step (h.runs hconvert hconverting) with
    | goesOn t hstep hgoes => exact ⟨t, hstep, hgoes.advances h hconvert (busy_of_converting hconverting)⟩
    | completes n x hstep _ =>
      exact ⟨_, hstep, .ends (h.complete (s' := writeSig _ s) (busy_of_converting hconverting) rfl _ _ _)
        (busy_of_converting hconverting) rfl⟩
  · cases hseq : s.seq with
    | idle => exact ⟨s, sequencerStep_of_idle hseq, rests (by rw [hseq]; rfl)⟩
    | faulted => exact ⟨s, sequencerStep_of_faulted hseq, rests (by rw [hseq]; rfl)⟩
    | exec =>
      obtain ⟨t, hstep, hadvances⟩ := execStep_advances h hseq
      exact ⟨t, (sequencerStep_of_exec hseq).trans hstep, hadvances⟩
    | _ => exact absurd (by rw [hseq]; rfl) hconverting

theorem advances_of_sequencerStep {s t : State} (h : Inv s) (hstep : sequencerStep s = .next t) : Advances s t := by
  obtain ⟨t', hstep', hadvances⟩ := sequencerStep_advances h
  cases hstep.symm.trans hstep'
  exact hadvances

/-! ## The host's step -/

theorem BracketInv.popInbox {s : State} (h : BracketInv s) : BracketInv (popInbox s) := h.congr rfl rfl rfl rfl

/-- A host write keeps the loop invariant: an accepted command has no search yet. -/
theorem BracketInv.hostWrite {s : State} (h : BracketInv s) (r : HostReg) (v : Word) : BracketInv (hostWrite r v s) := by
  obtain ⟨-, -, -, -, hscale, -, hsearch, -⟩ := hostWrite_frame r v s
  by_cases hidle : s.seq = .idle
  · refine .of_not_converting ?_
    cases r with
    | cmd =>
      rw [show Machine.hostWrite .cmd v s = accept v s from if_pos hidle]
      rfl
    | _ => simp [Machine.hostWrite, hidle, SeqState.converting]
  · obtain ⟨opa, opb, opc, ovr, hbank⟩ := hostWrite_bank_of_not_idle hidle r v
    exact h.congr (hostWrite_frame_of_not_idle hidle r v).1 (by rw [hbank]) hscale hsearch

/-- A host transaction while a command runs keeps the invariant, SEQ and the measure. -/
theorem hostTransaction_keeps {s t : State} {w : BusWord} (h : Inv s) (hbusy : s.seq.busy = true)
    (hstep : hostTransaction w s = .next t) : Inv t ∧ t.seq.busy = true ∧ stepsLeft t = stepsLeft s := by
  rcases hostTransaction_cases hstep with ⟨r, v, rfl⟩ | ⟨r, rfl⟩
  · have hidle := not_idle_of_busy hbusy
    obtain ⟨hseq, -⟩ := hostWrite_frame_of_not_idle hidle r v
    obtain ⟨opa, opb, opc, ovr, hbank⟩ := hostWrite_bank_of_not_idle hidle r v
    exact ⟨h.hostWrite r v, by rw [hseq, hbusy],
      stepsLeft_congr hseq (by rw [hbank]) (by rw [(hostWrite_internalsKept r v s).search])⟩
  · exact ⟨h.hostRead r, hbusy, stepsLeft_congr rfl rfl rfl⟩

/-! ## The obligations -/

/-- Settles O12. -/
theorem stepKeepsInvariant : Obligations.StepKeepsInvariant := by
  intro s t h hstep
  cases step_by hstep with
  | sequencer _ hstep => exact (advances_of_sequencerStep h.popInbox hstep).inv
  | write _ _ _ r v ht => exact ht ▸ h.popInbox.hostWrite r v
  | read _ _ _ r ht => exact ht ▸ h.popInbox.hostRead r
  | reset _ _ ht => exact ht ▸ inv_reset _

/-- Settles O59. -/
theorem searchKeepsBracket : Obligations.SearchKeepsBracket := by
  intro s t h hbracket hstep
  cases step_by hstep with
  | sequencer _ hstep => exact (advances_of_sequencerStep h.popInbox hstep).bracket hbracket.popInbox
  | write _ _ _ r v ht => exact ht ▸ hbracket.popInbox.hostWrite r v
  | read _ _ _ r ht => exact ht ▸ hbracket.congr rfl rfl rfl rfl
  | reset _ _ ht => exact ht ▸ .of_not_converting rfl

/-- Settles O14. -/
theorem sequencerStepBound : Obligations.SequencerStepBound := by
  intro s h
  refine ⟨stepsLeft_eq_zero_iff s, fun hbusy => ⟨?_, fun hfmt => ?_, fun hseq hother => ?_, ?_, fun w t hstep =>
    hostTransaction_keeps h hbusy hstep⟩⟩
  · have := stepsLeft_le s
    have := (searchSteps_le (fmtField s.bank.cmd)).1
    omega
  · have := stepsLeft_le s
    have := (searchSteps_le (fmtField s.bank.cmd)).2 hfmt
    omega
  · rw [stepsLeft_of_exec hseq, commandSteps_other hother]
  · obtain ⟨t, hstep, hadvances⟩ := sequencerStep_advances h
    exact ⟨t, hstep, hadvances.inv, hadvances.measure hbusy⟩

end Sys2Proof.Machine
end

section
/-! PROOFS. No step reads an unwritten register (10_state.md R50, 70_reset_and_hazards.md R380): two states that differ in what
their unwritten registers hold are one state refilled, and from a state of the invariant the sequencer's step does not see
what its unwritten registers are refilled with. -/

namespace Sys2Proof.Machine

open Sys2Proof

/-! ## Refilling what is unwritten -/

/-- The register, with the value of `m` if it is unwritten. -/
def Latch.refill {α : Type} (m l : Latch α) : Latch α :=
  match l with
  | .unwritten _ => .unwritten m.val
  | .holds v => .holds v

@[simp] theorem Latch.refill_holds {α : Type} (m : Latch α) (v : α) : m.refill (.holds v) = .holds v := rfl

theorem Latch.refill_of_agree {α : Type} {l m : Latch α} (h : l.Agree m) : m.refill l = m := by
  cases l with
  | unwritten v =>
    cases m with
    | unwritten w => rfl
    | holds w => exact h.elim
  | holds v => exact (Latch.eq_holds_of_agree h rfl).symm

@[simp] theorem Latch.agree_refill {α : Type} (m l : Latch α) : l.Agree (m.refill l) := by
  cases l with
  | unwritten v => trivial
  | holds v => rfl

/-- `s` with its unwritten registers holding what those of `u` hold. -/
def refill (u s : State) : State :=
  { s with
    latched :=
      { lcmd := u.latched.lcmd.refill s.latched.lcmd, la := u.latched.la.refill s.latched.la,
        lb := u.latched.lb.refill s.latched.lb, lc := u.latched.lc.refill s.latched.lc }
    cls :=
      { sgn := u.cls.sgn.refill s.cls.sgn, cls := u.cls.cls.refill s.cls.cls, ebf := u.cls.ebf.refill s.cls.ebf,
        f := u.cls.f.refill s.cls.f, e := u.cls.e.refill s.cls.e, edge := u.cls.edge.refill s.cls.edge }
    scale :=
      { cl := u.scale.cl.refill s.scale.cl, cr := u.scale.cr.refill s.scale.cr, k0 := u.scale.k0.refill s.scale.k0,
        beta := u.scale.beta.refill s.scale.beta, cent := u.scale.cent.refill s.scale.cent,
        z := u.scale.z.refill s.scale.z, delta := u.scale.delta.refill s.scale.delta }
    search :=
      { kappa := u.search.kappa.refill s.search.kappa, lidx := u.search.lidx.refill s.search.lidx,
        kq := u.search.kq.refill s.search.kq, sig := u.search.sig.refill s.search.sig } }

theorem sameWritten_refill (u s : State) : SameWritten s (refill u s) := by
  constructor <;> simp [refill]

theorem refill_of_sameWritten {s s' : State} (h : SameWritten s s') : refill s' s = s' := by
  obtain ⟨bank, seq, latched, cls, scale, memo, search, env⟩ := s'
  obtain ⟨rfl, rfl, rfl, rfl, lcmd, la, lb, lc, sgn, hcls, ebf, f, e, edge, cl, cr, k0, beta, cent, z, delta, kappa, lidx, kq,
    sig⟩ := h
  simp [refill, Latch.refill_of_agree, *]

/-! ## What is written is not refilled -/

theorem refill_latched {s : State} (h : Inv s) (hidle : s.seq ≠ .idle) (u : State) :
    (refill u s).latched = s.latched := by
  obtain ⟨a, b, c, ha, hb, hc⟩ := h.latch.operands hidle
  have latched : s.latched = ⟨.holds s.bank.cmd, .holds a, .holds b, .holds c⟩ := by
    rw [← h.latch.lcmd hidle, ← ha, ← hb, ← hc]
  simp [refill, latched]

theorem refill_cls {s : State} {c : Classified} (h : s.cls = classRegs c) (u : State) : (refill u s).cls = s.cls := by
  simp [refill, h, classRegs]

theorem refill_scale {s : State} {v : ScaleValues} (h : s.scale = scaleRegs v) (u : State) :
    (refill u s).scale = s.scale := by
  simp [refill, h, scaleRegs]

theorem refill_kappa {s : State} {k : Int} (h : s.search.kappa = .holds k) (u : State) :
    (refill u s).search.kappa = s.search.kappa := by
  simp [refill, h]

theorem refill_lidx {s : State} {i : Nat} (h : s.search.lidx = .holds i) (u : State) :
    (refill u s).search.lidx = s.search.lidx := by
  simp [refill, h]

theorem refill_kq {s : State} {k : Int} (h : s.search.kq = .holds k) (u : State) :
    (refill u s).search.kq = s.search.kq := by
  simp [refill, h]

/-! ## The steps do not see the refilling -/

theorem effect_refill {s : State} (u : State) (hlatched : (refill u s).latched = s.latched) (E : Effect) :
    E.apply (refill u s) = refill u (E.apply s) := by
  cases E with
  | fault code =>
    rw [Effect.apply, hlatched]
    rfl
  | _ => rfl

theorem finishLambda_refill (lambdas : List Int) (again : SeqState) (kappa : Int) (lidx : Nat) (settled : Int) (memo : Memo)
    (u s : State) : finishLambda lambdas again kappa lidx settled memo (refill u s) =
      refill u (finishLambda lambdas again kappa lidx settled memo s) := by
  unfold finishLambda
  split <;> rfl

section
variable {s : State} (u : State)

theorem execStep_refill (hlatched : (refill u s).latched = s.latched) :
    execStep (refill u s) = mapNext (refill u) (execStep s) := by
  obtain ⟨E, -, happly⟩ := execStep_effect s.latched
  rw [happly s rfl, happly (refill u s) hlatched, effect_refill u hlatched]
  rfl

theorem cvScale_refill (hlatched : (refill u s).latched = s.latched) (hcls : (refill u s).cls = s.cls) :
    cvScale (refill u s) = mapNext (refill u) (cvScale s) := by
  have values : scaleOfRegisters (refill u s).latched (refill u s).cls = scaleOfRegisters s.latched s.cls := by
    rw [hlatched, hcls]
  cases hv : scaleOfRegisters s.latched s.cls with
  | error r => rw [cvScale_of_error hv, cvScale_of_error (values.trans hv), mapNext]
  | ok v =>
    rw [cvScale_of_ok hv, cvScale_of_ok (values.trans hv), scaled, hlatched]
    rfl

theorem cvInit_refill (hscale : (refill u s).scale = s.scale) (hkappa : (refill u s).search.kappa = s.search.kappa) :
    cvInit (refill u s) = mapNext (refill u) (cvInit s) := by
  rw [cvInit_eq, cvInit_eq, hscale, hkappa]
  rfl

theorem cvUp_refill (hlatched : (refill u s).latched = s.latched) (hscale : (refill u s).scale = s.scale)
    (hkappa : (refill u s).search.kappa = s.search.kappa) (hlidx : (refill u s).search.lidx = s.search.lidx) :
    cvUp (refill u s) = mapNext (refill u) (cvUp s) := by
  cases hlam : (fmtField s.latched.lcmd.val).lambdaUp[s.search.lidx.val]? with
  | none => rw [cvUp_of_none hlam, cvUp_of_none (by rw [hlatched, hlidx, hlam]), mapNext]
  | some lam =>
    rw [cvUp_of_some hlam, cvUp_of_some (lam := lam) (by rw [hlatched, hlidx, hlam]), finishLambda_refill, hlatched, hscale,
      hkappa, hlidx]
    rfl

theorem cvDown_refill (hlatched : (refill u s).latched = s.latched) (hscale : (refill u s).scale = s.scale)
    (hkappa : (refill u s).search.kappa = s.search.kappa) (hlidx : (refill u s).search.lidx = s.search.lidx) :
    cvDown (refill u s) = mapNext (refill u) (cvDown s) := by
  cases hlam : (fmtField s.latched.lcmd.val).lambdaDown[s.search.lidx.val]? with
  | none => rw [cvDown_of_none hlam, cvDown_of_none (by rw [hlatched, hlidx, hlam]), mapNext]
  | some lam =>
    rw [cvDown_of_some hlam, cvDown_of_some (lam := lam) (by rw [hlatched, hlidx, hlam]), finishLambda_refill, hlatched,
      hscale, hkappa, hlidx]
    rfl

theorem cvSettle_refill (hcls : (refill u s).cls = s.cls) (hscale : (refill u s).scale = s.scale)
    (hkq : (refill u s).search.kq = s.search.kq) : cvSettle (refill u s) = mapNext (refill u) (cvSettle s) := by
  rcases settle_branch s with ⟨hcr, hr⟩ | hinside
  · rw [cvSettle_of_edge hcr hr, cvSettle_of_edge (by rw [hscale, hcr]) (by rw [hscale, hkq, hr]), hscale, hkq]
    rfl
  · rw [cvSettle_of_inside hinside, cvSettle_of_inside (by rwa [hscale, hkq]), hcls, hscale, hkq]
    rfl

theorem cvTail_refill (hcls : (refill u s).cls = s.cls) (hscale : (refill u s).scale = s.scale)
    (hkq : (refill u s).search.kq = s.search.kq) : cvTail (refill u s) = mapNext (refill u) (cvTail s) := by
  rw [cvTail_eq, cvTail_eq, hcls, hscale, hkq]
  rfl

/-- A step of a conversion reads only what the steps before it have written (R50). -/
theorem convertStep_refill (hinv : Inv s) (hconverting : s.seq.converting = true) :
    sequencerStep (refill u s) = mapNext (refill u) (sequencerStep s) := by
  obtain ⟨fmt, rmode, cpol, b, hconvert⟩ := hinv.convert hconverting
  have hidle := not_idle_of_busy (busy_of_converting hconverting)
  have hlatched := refill_latched hinv hidle u
  have hcls := refill_cls hconvert.classified u
  have hscale (hpast : s.seq ≠ .cvScale) : (refill u s).scale = s.scale := by
    obtain ⟨cl, cr, hscaled⟩ := (hinv.runs hconvert hconverting).scaled hpast
    exact refill_scale hscaled.scale u
  have hseq_refill : (refill u s).seq = s.seq := rfl
  cases hseq : s.seq with
  | cvScale =>
    rw [sequencerStep_of_cvScale hseq, sequencerStep_of_cvScale (hseq_refill.trans hseq), cvScale_refill u hlatched hcls]
  | cvInit =>
    rw [sequencerStep_of_cvInit hseq, sequencerStep_of_cvInit (hseq_refill.trans hseq),
      cvInit_refill u (hscale (by simp [hseq])) (refill_kappa (hconvert.search.init hseq).1 u)]
  | cvUp =>
    obtain ⟨k, i, hkappa, hlidx, -⟩ := hconvert.search.up hseq
    rw [sequencerStep_of_cvUp hseq, sequencerStep_of_cvUp (hseq_refill.trans hseq),
      cvUp_refill u hlatched (hscale (by simp [hseq])) (refill_kappa hkappa u) (refill_lidx hlidx u)]
  | cvDown =>
    obtain ⟨k, i, hkappa, hlidx, -⟩ := hconvert.search.down hseq
    rw [sequencerStep_of_cvDown hseq, sequencerStep_of_cvDown (hseq_refill.trans hseq),
      cvDown_refill u hlatched (hscale (by simp [hseq])) (refill_kappa hkappa u) (refill_lidx hlidx u)]
  | cvSettle =>
    obtain ⟨k, hkq, -⟩ := hconvert.search.settled (.inl hseq)
    rw [sequencerStep_of_cvSettle hseq, sequencerStep_of_cvSettle (hseq_refill.trans hseq),
      cvSettle_refill u hcls (hscale (by simp [hseq])) (refill_kq hkq u)]
  | cvTail =>
    obtain ⟨k, hkq, -⟩ := hconvert.search.settled (.inr hseq)
    rw [sequencerStep_of_cvTail hseq, sequencerStep_of_cvTail (hseq_refill.trans hseq),
      cvTail_refill u hcls (hscale (by simp [hseq])) (refill_kq hkq u)]
  | _ => simp [hseq, SeqState.converting] at hconverting

theorem sequencerStep_refill (hinv : Inv s) : sequencerStep (refill u s) = mapNext (refill u) (sequencerStep s) := by
  have hseq_refill : (refill u s).seq = s.seq := rfl
  by_cases hconverting : s.seq.converting = true
  · exact convertStep_refill u hinv hconverting
  · cases hseq : s.seq with
    | idle => rw [sequencerStep_of_idle hseq, sequencerStep_of_idle (hseq_refill.trans hseq), mapNext]
    | faulted => rw [sequencerStep_of_faulted hseq, sequencerStep_of_faulted (hseq_refill.trans hseq), mapNext]
    | exec =>
      rw [sequencerStep_of_exec hseq, sequencerStep_of_exec (hseq_refill.trans hseq),
        execStep_refill u (refill_latched hinv (by simp [hseq]) u)]
    | _ => exact absurd (by rw [hseq]; rfl) hconverting

/-- The host's writes read no internal register, and latch what they accept. -/
theorem hostWrite_refill (r : HostReg) (v : Word) : hostWrite r v (refill u s) = refill u (hostWrite r v s) := by
  cases r with
  | cmd =>
    by_cases hidle : s.seq = .idle
    · rw [show hostWrite .cmd v s = accept v s from if_pos hidle,
        show hostWrite .cmd v (refill u s) = accept v (refill u s) from if_pos hidle]
      rfl
    · rw [show hostWrite .cmd v s = overrun s from if_neg hidle,
        show hostWrite .cmd v (refill u s) = overrun (refill u s) from if_neg hidle]
      rfl
  | _ => rfl

end

/-! ## The step of the system -/

/-- No sequencer step touches the inbox (R395). -/
theorem sequencerStep_inbox {s t : State} (h : sequencerStep s = .next t) : t.env.inbox = s.env.inbox := by
  cases sequencerStep_moves h with
  | rests _ h => rw [h]
  | faults code _ _ h => rw [h, faultEntry_env]
  | completes r0 r1 r2 s' _ h hs' => rw [h, complete_env, hs'.inbox]
  | goesOn _ _ h => exact h.inbox

theorem InboxOk.of_inbox_eq {s t : State} (h : InboxOk s) (hinbox : t.env.inbox = s.env.inbox) : InboxOk t := by
  intro w hw
  exact h w (hinbox ▸ hw)

theorem InboxOk.popInbox {s : State} (h : InboxOk s) : InboxOk (popInbox s) := fun w hw => h w (List.mem_of_mem_tail hw)

/-- The two steps go on, to states that differ in what unwritten registers hold. -/
def StepsAlike (r r' : Result) : Prop := ∃ t t', r = .next t ∧ r' = .next t' ∧ InboxOk t ∧ SameWritten t t'

theorem StepsAlike.of_refill {t u : State} {r r' : Result} (hr : r = .next t) (hr' : r' = .next (refill u t))
    (hinbox : InboxOk t) : StepsAlike r r' :=
  ⟨t, refill u t, hr, hr', hinbox, sameWritten_refill u t⟩

theorem sequencerStep_alike {s : State} (h : Inv s) (hinbox : InboxOk s) (u : State) :
    StepsAlike (sequencerStep s) (sequencerStep (refill u s)) := by
  obtain ⟨t, hstep, -⟩ := sequencerStep_advances h
  exact .of_refill hstep (by rw [sequencerStep_refill u h, hstep, mapNext])
    (hinbox.of_inbox_eq (sequencerStep_inbox hstep))

/-- A transaction of R140 goes on, and does not see what unwritten registers hold. -/
theorem hostTransaction_alike {s : State} {w : BusWord} {i : Instr} (hw : decodeTxn w = .ok i) (hinbox : InboxOk s)
    (u : State) : StepsAlike (hostTransaction w s) (hostTransaction w (refill u s)) := by
  rcases decodeTxn_cases w with ⟨-, hwrite⟩ | ⟨-, -, hread⟩ | ⟨-, -, hnone⟩
  · obtain ⟨-, -, -, -, -, -, -, henv⟩ := hostWrite_frame (regOfIdx (w.extractLsb' 64 3)) (w.extractLsb' 0 64) s
    rw [hostTransaction_of_decodes hwrite, hostTransaction_of_decodes hwrite]
    exact .of_refill (exec_busWrite _ _ s) ((exec_busWrite _ _ _).trans (congrArg _ (hostWrite_refill u _ _)))
      (hinbox.of_inbox_eq (by rw [henv]))
  · rw [hostTransaction_of_decodes hread, hostTransaction_of_decodes hread]
    exact .of_refill (exec_busRead _ s) rfl (hinbox.of_inbox_eq rfl)
  · exact absurd hw (hnone i)

/-- Settles O13: the second state is the first one refilled. -/
theorem stepGoesOnWithoutUnwrittenReads : Obligations.StepGoesOnWithoutUnwrittenReads := by
  intro s s' h hinbox hsame
  rw [← refill_of_sameWritten hsame]
  change StepsAlike (step s) (step (refill s' s))
  cases hevents : s.env.inbox with
  | nil =>
    rw [step_of_quiet hevents, step_of_quiet (s := refill s' s) hevents]
    exact sequencerStep_alike h hinbox s'
  | cons e rest =>
    have popped : popInbox (refill s' s) = refill s' (popInbox s) := rfl
    rw [show step s = deliver e (popInbox s) from systemStep_event hevents,
      show step (refill s' s) = deliver e (popInbox (refill s' s)) from systemStep_event hevents, popped]
    cases e with
    | txn w =>
      obtain ⟨i, hi⟩ := hinbox w (by simp [hevents])
      exact hostTransaction_alike hi hinbox.popInbox s'
    | sequencer => exact sequencerStep_alike h.popInbox hinbox.popInbox s'
    | reset => exact ⟨_, _, rfl, rfl, hinbox.popInbox.of_inbox_eq rfl, .refl _⟩

end Sys2Proof.Machine
end

section
/-! PROOFS. The result law (44_digit_search.md R250 to R259): the rounding interval scaled by `10^-K0`, the result of the search
and of its tail in the scaled interval, and what follows from the law alone. -/

namespace Sys2Proof.Machine

open Sys2Proof

/-! ## The scaled interval (R211, R214, R215) -/

/-- The rounding interval scaled by `10^-K0`: it ends at `Z` and has the width `DELTA`. -/
def inScaled (z delta : ℚ) (cl cr : Bool) (w : ℚ) : Prop :=
  (z - delta < w ∧ w < z) ∨ (cl = true ∧ w = z - delta) ∨ (cr = true ∧ w = z)

theorem ten_zpow_cancel (k0 : Int) : (10 : ℚ) ^ (-k0) * 10 ^ k0 = 1 := by
  rw [← zpow_add₀ (by norm_num), neg_add_cancel, zpow_zero]

theorem upperEdge_eq (f : Nat) (e k0 : Int) : upperEdge f e = scaledUpper f e k0 * 10 ^ k0 := by
  rw [scaledUpper, mul_assoc, ten_zpow_cancel, mul_one, upperEdge]

theorem upperEdge_sub_lowerEdge (f : Nat) (e k0 : Int) (edge : Bool) :
    upperEdge f e - lowerEdge f e edge = scaledWidth e k0 edge * 10 ^ k0 := by
  have two_pow (j : Nat) : (2 : ℚ) ^ (e - j) = 2 ^ e / 2 ^ j := by rw [zpow_sub₀ (by norm_num), zpow_natCast]
  rw [scaledWidth, mul_assoc, ten_zpow_cancel, mul_one, upperEdge, lowerEdge, show e - 1 = e - (1 : Nat) from rfl,
    show e - 2 = e - (2 : Nat) from rfl, two_pow, two_pow]
  cases edge <;> simp <;> ring

theorem lowerEdge_eq (f : Nat) (e k0 : Int) (edge : Bool) :
    lowerEdge f e edge = (scaledUpper f e k0 - scaledWidth e k0 edge) * 10 ^ k0 := by
  rw [sub_mul, ← upperEdge_eq, ← upperEdge_sub_lowerEdge]
  ring

theorem lowerEdge_lt_upperEdge (f : Nat) (e : Int) (edge : Bool) : lowerEdge f e edge < upperEdge f e := by
  rw [← sub_pos, upperEdge_sub_lowerEdge f e (decimalScale e)]
  have := (scaledWidth_bounds e edge).1
  positivity

theorem inInterval_iff_inScaled (f : Nat) (e k0 : Int) (edge cl cr : Bool) (w : ℚ) :
    inInterval f e edge cl cr (w * 10 ^ k0) ↔ inScaled (scaledUpper f e k0) (scaledWidth e k0 edge) cl cr w := by
  have scale := pow10_pos k0
  rw [inInterval, inScaled, lowerEdge_eq f e k0, upperEdge_eq f e k0, mul_lt_mul_iff_left₀ scale, mul_lt_mul_iff_left₀ scale,
    mul_left_inj' scale.ne', mul_left_inj' scale.ne']

theorem inInterval_iff_multiple (f : Nat) (e k0 : Int) (edge cl cr : Bool) (n x : Int) :
    inInterval f e edge cl cr (n * 10 ^ x) ↔
      inScaled (scaledUpper f e k0) (scaledWidth e k0 edge) cl cr (n * 10 ^ (x - k0)) := by
  rw [← inInterval_iff_inScaled, mul_assoc, ← zpow_add₀ (by norm_num), sub_add_cancel]

/-- The law in the scaled interval is the law of the interval, at the exponent less `K0` (R258). -/
theorem IsShortest.of_scaled {f : Nat} {e k0 : Int} {edge cl cr : Bool} {n k : Int}
    (h : IsShortest (inScaled (scaledUpper f e k0) (scaledWidth e k0 edge) cl cr) n k) :
    IsShortest (inInterval f e edge cl cr) n (k + k0) where
  positive := h.positive
  inside := (inInterval_iff_multiple f e k0 edge cl cr n (k + k0)).2 (by rw [add_sub_cancel_right]; exact h.inside)
  exponentGreatest n' x' hn' hx' := by
    have := h.exponentGreatest n' (x' - k0) hn' ((inInterval_iff_multiple f e k0 edge cl cr n' x').1 hx')
    omega
  significandGreatest n' hn' hx' :=
    h.significandGreatest n' hn' (by simpa using (inInterval_iff_multiple f e k0 edge cl cr n' (k + k0)).1 hx')

/-- The result of the law is one (R250). -/
theorem IsShortest.unique {I : ℚ → Prop} {n n' x x' : Int} (h : IsShortest I n x) (h' : IsShortest I n' x') :
    n = n' ∧ x = x' := by
  obtain rfl : x = x' := le_antisymm (h'.exponentGreatest n x h.positive h.inside)
    (h.exponentGreatest n' x' h'.positive h'.inside)
  exact ⟨le_antisymm (h'.significandGreatest n h.positive h.inside) (h.significandGreatest n' h'.positive h'.inside), rfl⟩

/-! ## The search finds the result (R256, R258) -/

section
variable {z delta : ℚ} {cl cr : Bool} {kq : Int}

theorem inScaled_le {w : ℚ} (h : inScaled z delta cl cr w) (hdelta : 0 < delta) : w ≤ z := by
  rcases h with ⟨-, h⟩ | ⟨-, rfl⟩ | ⟨-, rfl⟩ <;> linarith

/-- What lies in the interval is within `DELTA` of `Z`, at `DELTA` only where the left edge is contained. -/
theorem inScaled_width {w : ℚ} (h : inScaled z delta cl cr w) (hdelta : 0 < delta) :
    z - w < delta ∨ (z - w = delta ∧ cl = true) := by
  rcases h with ⟨h, -⟩ | ⟨hcl, rfl⟩ | ⟨-, rfl⟩
  · exact .inl (by linarith)
  · exact .inr ⟨by ring, hcl⟩
  · exact .inl (by linarith)

/-- Where `10^kappa` has a positive multiple in the interval, kappa is accepted (R217). -/
theorem accept_of_multiple {n kappa : Int} (hdelta : 0 < delta) (hn : 1 ≤ n) (h : inScaled z delta cl cr (n * 10 ^ kappa)) :
    exactAccept z delta cl kappa := by
  have below : n ≤ candidate z kappa := (le_candidate_iff z kappa n).2 (inScaled_le h hdelta)
  have closer : (n : ℚ) * 10 ^ kappa ≤ candidate z kappa * 10 ^ kappa :=
    mul_le_mul_of_nonneg_right (by exact_mod_cast below) (pow10_pos kappa).le
  have sum := candidate_add_remainder z kappa
  refine ⟨hn.trans below, ?_⟩
  rcases inScaled_width h hdelta with hlt | ⟨heq, hcl⟩
  · exact .inl (by linarith)
  · exact (lt_or_eq_of_le (by linarith : remainder z kappa ≤ delta)).imp_right fun h => ⟨h, hcl⟩

/-- The candidate of the greatest accepted kappa is the result, unless it is the open right edge (R258). -/
theorem isShortest_candidate (hdelta : 0 < delta) (haccept : exactAccept z delta cl kq)
    (hgreatest : ∀ kappa : Int, kq < kappa → ¬exactAccept z delta cl kappa) (hinside : cr = true ∨ remainder z kq ≠ 0) :
    IsShortest (inScaled z delta cl cr) (candidate z kq) kq where
  positive := haccept.1
  inside := by
    have sum := candidate_add_remainder z kq
    have nonneg := remainder_nonneg z kq
    rcases eq_or_ne (remainder z kq) 0 with hzero | hne
    · exact .inr (.inr ⟨hinside.resolve_right (not_not_intro hzero), by linarith⟩)
    · have positive : 0 < remainder z kq := lt_of_le_of_ne nonneg hne.symm
      rcases haccept.2 with hlt | ⟨heq, hcl⟩
      · exact .inl ⟨by linarith, by linarith⟩
      · exact .inr (.inl ⟨hcl, by linarith⟩)
  exponentGreatest n' kappa hn' h' := not_lt.1 fun hlt => hgreatest kappa hlt (accept_of_multiple hdelta hn' h')
  significandGreatest n' _ h' := (le_candidate_iff z kq n').2 (inScaled_le h' hdelta)

/-! ## The tail (R259, R265) -/

/-- Where `Z` is a multiple of `10^kq`, it is one of every lower power. -/
theorem candidate_mul_of_multiple {kappa : Int} (hzero : remainder z kq = 0) (hkappa : kappa ≤ kq) :
    (candidate z kappa : ℚ) * 10 ^ kappa = z := by
  have less := (candidate_remainder_anti z hkappa).2
  have nonneg := remainder_nonneg z kappa
  have sum := candidate_add_remainder z kappa
  linarith

/-- One step of `10^kappa` below the right edge is in the interval: this is what the limit of the tail tests (R265). -/
def StepFits (delta : ℚ) (cl : Bool) (kappa : Int) : Prop := (10 : ℚ) ^ kappa < delta ∨ ((10 : ℚ) ^ kappa = delta ∧ cl = true)

/-- The tail's limit is the greatest such exponent, whatever `DELTA` in its range is (R259). -/
theorem stepFits_iff (hdelta : 3 / 4 ≤ delta) (hdelta' : delta < 10) (cl : Bool) (kappa : Int) :
    StepFits delta cl kappa ↔ kappa ≤ tailLimit delta cl := by
  have at_most {j : Int} (h : kappa ≤ j) : (10 : ℚ) ^ kappa ≤ 10 ^ j := zpow_le_zpow_right₀ (by norm_num) h
  have at_least {j : Int} (h : j ≤ kappa) : (10 : ℚ) ^ j ≤ 10 ^ kappa := zpow_le_zpow_right₀ (by norm_num) h
  unfold StepFits tailLimit
  split
  · next hone =>
    constructor
    · intro h
      by_contra hpos
      have ten := at_least (j := 1) (by omega)
      norm_num at ten
      rcases h with h | ⟨h, -⟩ <;> linarith
    · intro h
      have one := at_most h
      rw [zpow_zero] at one
      rcases hone with hlt | ⟨heq, hcl⟩
      · exact .inl (by linarith)
      · exact (lt_or_eq_of_le (by linarith : (10 : ℚ) ^ kappa ≤ delta)).imp_right fun h => ⟨h, hcl⟩
  · next hnone =>
    push Not at hnone
    constructor
    · intro h
      by_contra hpos
      have one := at_least (j := 0) (by omega)
      rw [zpow_zero] at one
      rcases h with h | ⟨h, hcl⟩
      · linarith [hnone.1]
      · exact hnone.2 (by linarith [hnone.1]) hcl
    · intro h
      have tenth := at_most h
      norm_num at tenth
      exact .inl (by linarith)

/-- The greatest multiple below the open right edge is the result (R259, R265). -/
theorem isShortest_tail (hdelta : 3 / 4 ≤ delta) (hdelta' : delta < 10) (hz : 3 / 2 ≤ z)
    (hgreatest : ∀ kappa : Int, kq < kappa → ¬exactAccept z delta cl kappa) (hzero : remainder z kq = 0) :
    IsShortest (inScaled z delta cl false) (candidate z (min kq (tailLimit delta cl)) - 1)
      (min kq (tailLimit delta cl)) := by
  have positive : 0 < delta := by linarith
  have below {n kappa : Int} (hkappa : kappa ≤ kq) (h : inScaled z delta cl false (n * 10 ^ kappa)) :
      n ≤ candidate z kappa - 1 := by
    have lt_z : (n : ℚ) * 10 ^ kappa < candidate z kappa * 10 ^ kappa := by
      rw [candidate_mul_of_multiple hzero hkappa]
      rcases h with ⟨-, h⟩ | ⟨-, h⟩ | ⟨h, -⟩
      · exact h
      · linarith
      · cases h
    have : n < candidate z kappa := by exact_mod_cast lt_of_mul_lt_mul_right lt_z (pow10_pos kappa).le
    omega
  have multiple := candidate_mul_of_multiple hzero (min_le_left kq (tailLimit delta cl))
  have fits : StepFits delta cl (min kq (tailLimit delta cl)) := (stepFits_iff hdelta hdelta' cl _).2 (min_le_right _ _)
  have at_most_one : (10 : ℚ) ^ min kq (tailLimit delta cl) ≤ 1 := by
    have limit : tailLimit delta cl ≤ 0 := by unfold tailLimit; split <;> decide
    exact zpow_le_one_of_nonpos₀ (by norm_num) ((min_le_right _ _).trans limit)
  have step_positive := pow10_pos (min kq (tailLimit delta cl))
  constructor
  · have two : (1 : ℚ) < candidate z (min kq (tailLimit delta cl)) := by nlinarith
    have : 1 < candidate z (min kq (tailLimit delta cl)) := by exact_mod_cast two
    omega
  · have value : ((candidate z (min kq (tailLimit delta cl)) - 1 : Int) : ℚ) * 10 ^ min kq (tailLimit delta cl) =
        z - 10 ^ min kq (tailLimit delta cl) := by
      push_cast
      linarith
    rw [value]
    rcases fits with hlt | ⟨heq, hcl⟩
    · exact .inl ⟨by linarith, by linarith⟩
    · exact .inr (.inl ⟨hcl, by rw [heq]⟩)
  · intro n kappa hn h
    have hkappa : kappa ≤ kq := not_lt.1 fun hlt => hgreatest kappa hlt (accept_of_multiple positive hn h)
    have multiple := candidate_mul_of_multiple hzero hkappa
    have le_last : (n : ℚ) * 10 ^ kappa ≤ (candidate z kappa - 1) * 10 ^ kappa :=
      mul_le_mul_of_nonneg_right (by exact_mod_cast below hkappa h) (pow10_pos kappa).le
    refine le_min hkappa ((stepFits_iff hdelta hdelta' cl kappa).1 ?_)
    rcases inScaled_width h positive with hlt | ⟨heq, hcl⟩
    · exact .inl (by linarith)
    · exact (lt_or_eq_of_le (by linarith : (10 : ℚ) ^ kappa ≤ delta)).imp_right fun h => ⟨h, hcl⟩
  · intro n _ h
    exact below (min_le_left _ _) h

end

/-! ## The completion of a conversion -/

/-- `n` at exponent `x` is the result of the law for this pattern, and fits its words. -/
structure LawfulResult (fmt : Fmt) (rmode : RMode) (b : Word) (n x : Int) : Prop where
  law : ∃ cl cr, policyOf rmode (classifyPattern fmt b).sgn (classifyPattern fmt b).f.toNat = some (cl, cr) ∧
    IsShortest (inInterval (classifyPattern fmt b).f.toNat (classifyPattern fmt b).e (classifyPattern fmt b).edge cl cr) n x
  significand : n < 2 ^ 64
  exponent : -2 ^ 63 ≤ x ∧ x < 2 ^ 63

/-- A result of the scaled interval, not above the candidate of its exponent, is lawful. -/
theorem LawfulResult.of_scaled {fmt : Fmt} {rmode : RMode} {b : Word} {cl cr : Bool} {s : State} {n k : Int}
    (h : Scaled fmt rmode b cl cr s)
    (hlaw : IsShortest (inScaled (patternScale fmt cl cr b).z (patternScale fmt cl cr b).delta cl cr) n k)
    (hn : n ≤ candidate (patternScale fmt cl cr b).z k) (hk : -1 ≤ k ∧ k ≤ 16) :
    LawfulResult fmt rmode b n (k + (patternScale fmt cl cr b).k0) where
  law := ⟨cl, cr, h.policy, IsShortest.of_scaled hlaw⟩
  significand := by
    have narrow : (patternScale fmt cl cr b).z < 10 ^ 17 := by
      refine (patternScale_z_upper cl cr h.finite).trans_le ?_
      cases fmt <;> norm_num [Fmt.kMax]
    have := (candidate_word (patternScale_z_lower cl cr h.finite) narrow hk.1).2
    omega
  exponent := by
    have range : -324 ≤ (patternScale fmt cl cr b).k0 ∧ (patternScale fmt cl cr b).k0 ≤ 292 :=
      decimalScale_word h.finite
    omega

theorem kappa_word {fmt : Fmt} {k : Int} (h : kMin ≤ k ∧ k ≤ fmt.kMax) : -1 ≤ k ∧ k ≤ 16 := by
  cases fmt <;> simp only [kMin, Fmt.kMax] at h <;> omega

/-- A step of a running conversion goes on, or completes with a lawful result (R267). -/
theorem convert_step_lawful {fmt : Fmt} {rmode : RMode} {b : Word} {s : State} (hruns : Runs fmt rmode b s)
    (hbracket : BracketInv s) :
    (∃ t, sequencerStep s = .next t ∧ GoesOn fmt rmode b s t) ∨
      ∃ n x, sequencerStep s = .next (convertCompletes n x (classifyPattern fmt b).sgn s) ∧ LawfulResult fmt rmode b n x := by
  cases convert_step hruns with
  | goesOn t h hgoes => exact .inl ⟨t, h, hgoes⟩
  | completes _ _ _ hseq =>
    have hpast : s.seq ≠ .cvScale := by rcases hseq with hseq | hseq <;> simp [hseq]
    obtain ⟨cl, cr, hscaled⟩ := hruns.scaled hpast
    have bracket := (hscaled.bracket_iff hruns.converting hpast).1 hbracket
    obtain ⟨delta_lower, delta_upper⟩ := patternScale_delta fmt cl cr b
    obtain ⟨kq, hkq, range⟩ := hscaled.search.settled hseq
    obtain ⟨haccept, hgreatest⟩ := bracket.settled hseq kq hkq
    have word := kappa_word range
    rcases hseq with hseq | hseq
    · obtain ⟨_, hkq', ⟨t, h, hgoes, -⟩ | ⟨hinside, h⟩⟩ := cvSettle_step hscaled hseq
      · exact .inl ⟨t, h, hgoes⟩
      · cases hkq.symm.trans hkq'
        exact .inr ⟨_, _, h, .of_scaled hscaled (isShortest_candidate (by linarith) haccept hgreatest hinside) le_rfl word⟩
    · obtain ⟨_, hkq', h⟩ := cvTail_step hscaled hseq
      cases hkq.symm.trans hkq'
      obtain ⟨rfl, hzero⟩ := bracket.tail hseq
      have limit : -1 ≤ tailLimit (patternScale fmt cl false b).delta cl := by unfold tailLimit; split <;> decide
      exact .inr ⟨_, _, h, .of_scaled hscaled (isShortest_tail delta_lower delta_upper
        (patternScale_z_lower cl false hscaled.finite) hgreatest (hzero kq hkq)) (by omega) (by omega)⟩

/-- The words of a lawful result are its numbers (R326). -/
theorem LawfulResult.words {fmt : Fmt} {rmode : RMode} {b : Word} {n x : Int} (h : LawfulResult fmt rmode b n x) :
    ((BitVec.ofInt 64 n).toNat : Int) = n ∧ (tc64 x).toInt = x := by
  obtain ⟨cl, cr, -, hlaw⟩ := h.law
  exact ⟨toNat_ofInt_of_lt (by have := hlaw.positive; omega) h.significand, toInt_tc64 h.exponent.1 h.exponent.2⟩

/-- The format, the mode and the pattern decide the lawful result (R327). -/
theorem LawfulResult.unique {fmt : Fmt} {rmode : RMode} {b : Word} {n n' x x' : Int} (h : LawfulResult fmt rmode b n x)
    (h' : LawfulResult fmt rmode b n' x') : n = n' ∧ x = x' := by
  obtain ⟨cl, cr, hpolicy, hlaw⟩ := h.law
  obtain ⟨cl', cr', hpolicy', hlaw'⟩ := h'.law
  obtain ⟨rfl, rfl⟩ : cl' = cl ∧ cr' = cr := by simpa using hpolicy'.symm.trans hpolicy
  exact hlaw.unique hlaw'

/-- The frame of a completed conversion (R47). -/
theorem bankCompleted_convertCompletes (n x : Int) (sgn : Bool) (s : State) :
    BankCompleted s (convertCompletes n x sgn s) (BitVec.ofInt 64 n) (tc64 x) (bitWord sgn) := by
  constructor <;> rfl

theorem toNat_bitWord (b : Bool) : (bitWord b).toNat = if b then 1 else 0 := by cases b <;> rfl

/-- A step that completes a conversion completes it with a lawful result. -/
theorem completion_lawful {fmt : Fmt} {rmode : RMode} {cpol : CasePolicy} {b : Word} {s t : State} (hinv : Inv s)
    (hbracket : BracketInv s) (hconvert : ConvertInv fmt rmode cpol b s) (hconverting : s.seq.converting = true)
    (hstep : sequencerStep s = .next t) (hidle : t.seq = .idle) :
    ∃ n x, t = convertCompletes n x (classifyPattern fmt b).sgn s ∧ LawfulResult fmt rmode b n x := by
  rcases convert_step_lawful (hinv.runs hconvert hconverting) hbracket with ⟨t', h, hgoes⟩ | ⟨n, x, h, hlawful⟩
  · cases hstep.symm.trans h
    exact absurd hidle (not_idle_of_busy (busy_of_converting hgoes.converting))
  · cases hstep.symm.trans h
    exact ⟨n, x, rfl, hlawful⟩

/-- Settles O60. -/
theorem completionMeetsResultLaw : Obligations.CompletionMeetsResultLaw := by
  rintro fmt rmode cpol b s t _ hinv hbracket hconverting hconvert rfl hstep hidle
  obtain ⟨n, x, rfl, hlawful⟩ := completion_lawful hinv hbracket hconvert hconverting hstep hidle
  obtain ⟨significand, exponent⟩ := hlawful.words
  obtain ⟨cl, cr, hpolicy, hlaw⟩ := hlawful.law
  exact ⟨_, _, _, cl, cr, bankCompleted_convertCompletes .., rfl, hpolicy, by rwa [significand, exponent],
    toNat_bitWord _⟩

end Sys2Proof.Machine
end

section
/-! PROOFS. What follows from the result law (44_digit_search.md R251 and R252, 46_convert.md R326 and R327). -/

namespace Sys2Proof.Machine

open Sys2Proof

/-! ## Decimal digits -/

theorem digitCount_pos {n : Int} (hn : 1 ≤ n) : 1 ≤ digitCount n :=
  List.length_pos_iff.2 (Nat.digits_ne_nil_iff_ne_zero.2 (by omega))

/-- `d` digits make up the numbers from `10^(d-1)` to `10^d`. -/
theorem digitCount_bounds {n : Int} (hn : 1 ≤ n) :
    (10 : ℚ) ^ ((digitCount n : Int) - 1) ≤ n ∧ (n : ℚ) < 10 ^ (digitCount n : Int) := by
  lift n to Nat using by omega
  have positive : n ≠ 0 := by omega
  have lower : 10 ^ digitCount n ≤ 10 * n := Nat.base_pow_length_digits_le 10 n (by norm_num) positive
  have upper : n < 10 ^ digitCount n := Nat.lt_base_pow_length_digits (by norm_num)
  constructor
  · rw [zpow_sub₀ (by norm_num), zpow_natCast, zpow_one, div_le_iff₀ (by norm_num), mul_comm]
    exact_mod_cast lower
  · rw [zpow_natCast]
    exact_mod_cast upper

/-- The decimal exponents between which a decimal of `d` digits lies. -/
theorem decimal_bounds {n : Int} (hn : 1 ≤ n) (x : Int) :
    (10 : ℚ) ^ ((digitCount n : Int) - 1 + x) ≤ n * 10 ^ x ∧ (n : ℚ) * 10 ^ x < 10 ^ ((digitCount n : Int) + x) := by
  obtain ⟨lower, upper⟩ := digitCount_bounds hn
  have scale := pow10_pos x
  rw [zpow_add₀ (by norm_num), zpow_add₀ (by norm_num)]
  exact ⟨mul_le_mul_of_nonneg_right lower scale.le, mul_lt_mul_of_pos_right upper scale⟩

/-! ## The law alone -/

section
variable {f : Nat} {e : Int} {edge cl cr : Bool} {n x : Int}

/-- The rounding interval has no holes. -/
theorem inInterval_convex {v w u : ℚ} (hv : inInterval f e edge cl cr v) (hu : inInterval f e edge cl cr u) (hvw : v < w)
    (hwu : w ≤ u) : inInterval f e edge cl cr w := by
  have edges := lowerEdge_lt_upperEdge f e edge
  have above : lowerEdge f e edge < w := by rcases hv with ⟨h, -⟩ | ⟨-, rfl⟩ | ⟨-, rfl⟩ <;> linarith
  rcases hu with ⟨-, h⟩ | ⟨-, rfl⟩ | ⟨hcr, rfl⟩
  · exact .inl ⟨above, hwu.trans_lt h⟩
  · linarith
  · exact (lt_or_eq_of_le hwu).elim (fun h => .inl ⟨above, h⟩) fun h => .inr (.inr ⟨hcr, h⟩)

/-- A multiple of 10 would have a greater exponent (R252). -/
theorem IsShortest.not_ten_dvd {I : ℚ → Prop} (h : IsShortest I n x) : ¬(10 : Int) ∣ n := by
  rintro ⟨m, rfl⟩
  have positive := h.positive
  have same : ((10 * m : Int) : ℚ) * 10 ^ x = m * 10 ^ (x + 1) := by
    push_cast
    rw [zpow_add_one₀ (by norm_num)]
    ring
  have := h.exponentGreatest m (x + 1) (by omega) (same ▸ h.inside)
  omega

/-- What lies in the interval lies between its edges, on an edge only where it is contained (R252). -/
theorem inInterval_edges {v : ℚ} (h : inInterval f e edge cl cr v) : v ≤ upperEdge f e ∧ lowerEdge f e edge ≤ v ∧
    (v = upperEdge f e → cr = true) ∧ (v = lowerEdge f e edge → cl = true) := by
  have edges := lowerEdge_lt_upperEdge f e edge
  rcases h with ⟨hlow, hhigh⟩ | ⟨hcl, rfl⟩ | ⟨hcr, rfl⟩
  · exact ⟨hhigh.le, hlow.le, fun h => absurd h hhigh.ne, fun h => absurd h hlow.ne'⟩
  · exact ⟨edges.le, le_rfl, fun h => absurd h edges.ne, fun _ => hcl⟩
  · exact ⟨le_rfl, edges.le, fun _ => hcr, fun h => absurd h edges.ne'⟩

/-- No decimal of the interval has fewer digits: between it and the result there would be a power of ten with a greater
exponent (R251). -/
theorem IsShortest.digitCount_le (h : IsShortest (inInterval f e edge cl cr) n x) {n' x' : Int} (hn' : 1 ≤ n')
    (hinside : inInterval f e edge cl cr (n' * 10 ^ x')) : digitCount n ≤ digitCount n' := by
  by_contra hlt
  have exponent := h.exponentGreatest n' x' hn' hinside
  have some_digit := digitCount_pos hn'
  have above := (decimal_bounds h.positive x).1
  have below : (n' : ℚ) * 10 ^ x' < 10 ^ ((digitCount n : Int) - 1 + x) :=
    (decimal_bounds hn' x').2.trans_le (zpow_le_zpow_right₀ (by norm_num) (by omega))
  have between := inInterval_convex hinside h.inside below above
  have := h.exponentGreatest 1 ((digitCount n : Int) - 1 + x) le_rfl (by simpa using between)
  omega

/-- Among the decimals with as few digits the result is the largest (R251). -/
theorem IsShortest.largest (h : IsShortest (inInterval f e edge cl cr) n x) {n' x' : Int} (hn' : 1 ≤ n')
    (hinside : inInterval f e edge cl cr (n' * 10 ^ x')) (hdigits : digitCount n' = digitCount n) :
    (n' : ℚ) * 10 ^ x' ≤ n * 10 ^ x := by
  rcases (h.exponentGreatest n' x' hn' hinside).lt_or_eq with hlt | rfl
  · have shorter : (10 : ℚ) ^ ((digitCount n' : Int) + x') ≤ 10 ^ ((digitCount n : Int) - 1 + x) :=
      zpow_le_zpow_right₀ (by norm_num) (by omega)
    linarith [(decimal_bounds hn' x').2, (decimal_bounds h.positive x).1]
  · have := h.significandGreatest n' hn' hinside
    exact mul_le_mul_of_nonneg_right (by exact_mod_cast this) (pow10_pos x').le

/-! ## The law for a pattern -/

/-- `10^(K0-1)` has a multiple in the interval: it is shorter than the interval is wide (R252). -/
theorem IsShortest.exponent_lower (hf : 1 ≤ f) (h : IsShortest (inInterval f e edge cl cr) n x) :
    decimalScale e - 1 ≤ x := by
  have width := (scaledWidth_bounds e edge).1
  obtain ⟨one_le, -⟩ := scaled_exponent_bounds e
  have z_lower : (3 / 2 : ℚ) ≤ scaledUpper f e (decimalScale e) := by
    have : (1 : ℚ) ≤ f := by exact_mod_cast hf
    rw [scaledUpper_eq]
    nlinarith
  have ceil_upper := Int.ceil_lt_add_one (10 * scaledUpper f e (decimalScale e))
  have ceil_lower := Int.le_ceil (10 * scaledUpper f e (decimalScale e))
  have positive : (2 : Int) ≤ ⌈10 * scaledUpper f e (decimalScale e)⌉ := by
    have : (1 : ℚ) < ⌈10 * scaledUpper f e (decimalScale e)⌉ := by linarith
    exact_mod_cast this
  refine h.exponentGreatest (⌈10 * scaledUpper f e (decimalScale e)⌉ - 1) (decimalScale e - 1) (by omega)
    ((inInterval_iff_multiple f e (decimalScale e) edge cl cr _ _).2 (.inl ?_))
  rw [show decimalScale e - 1 - decimalScale e = -1 by ring]
  push_cast
  constructor <;> norm_num <;> linarith

end

/-- The significand of a result (R252, R326): less than `10 * Z`. -/
theorem IsShortest.significand_lt {fmt : Fmt} {f : Nat} {e : Int} {edge cl cr : Bool} {n x : Int} (hf : 1 ≤ f)
    (hf' : f < 2 ^ fmt.extPrecision) (h : IsShortest (inInterval f e edge cl cr) n x) :
    (n : ℚ) < 100 * 2 ^ fmt.extPrecision := by
  have z_upper := (scaledUpper_bounds hf hf' e).2
  have inside := inScaled_le ((inInterval_iff_multiple f e (decimalScale e) edge cl cr n x).1 h.inside)
    (by linarith [(scaledWidth_bounds e edge).1])
  have tenth : (10 : ℚ) ^ (-1 : Int) ≤ 10 ^ (x - decimalScale e) :=
    zpow_le_zpow_right₀ (by norm_num) (by have := h.exponent_lower hf; omega)
  have positive : (1 : ℚ) ≤ n := by exact_mod_cast h.positive
  norm_num at tenth
  nlinarith

/-- The value of a result is less than the first power of two above the format (R326). -/
theorem IsShortest.ten_pow_lt {fmt : Fmt} {f : Nat} {e : Int} {edge cl cr : Bool} {n x : Int}
    (hf' : f < 2 ^ fmt.extPrecision) (he : e ≤ fmt.eMaxF) (h : IsShortest (inInterval f e edge cl cr) n x) :
    (10 : ℚ) ^ x < 2 ^ ((fmt.extPrecision : Int) + fmt.eMaxF) := by
  have positive : (1 : ℚ) ≤ n := by exact_mod_cast h.positive
  have significand : (f : ℚ) + 1 ≤ 2 ^ fmt.extPrecision := by exact_mod_cast hf'
  have exponent : (2 : ℚ) ^ e ≤ 2 ^ fmt.eMaxF := zpow_le_zpow_right₀ (by norm_num) he
  have two_pos : (0 : ℚ) < 2 ^ e := by positivity
  have upper : upperEdge f e = (f + 1 / 2) * 2 ^ e := by
    rw [upperEdge, zpow_sub_one₀ (by norm_num)]
    ring
  calc (10 : ℚ) ^ x ≤ n * 10 ^ x := le_mul_of_one_le_left (pow10_pos x).le positive
    _ ≤ upperEdge f e := (inInterval_edges h.inside).1
    _ = (f + 1 / 2) * 2 ^ e := upper
    _ < 2 ^ fmt.extPrecision * 2 ^ e := mul_lt_mul_of_pos_right (by linarith) two_pos
    _ ≤ 2 ^ fmt.extPrecision * 2 ^ fmt.eMaxF := mul_le_mul_of_nonneg_left exponent (by positivity)
    _ = 2 ^ ((fmt.extPrecision : Int) + fmt.eMaxF) := by rw [zpow_add₀ (by norm_num), zpow_natCast]

/-- Settles O58. -/
theorem resultLawProperties : Obligations.ResultLawProperties := by
  refine ⟨fun f e edge cl cr n x h _ => ?_, ?_⟩
  · obtain ⟨upper, lower, right, left⟩ := inInterval_edges h.inside
    exact ⟨h.not_ten_dvd, upper, lower, right, left,
      fun n' x' hn' hinside => ⟨h.digitCount_le hn' hinside, h.largest hn' hinside⟩⟩
  · rintro fmt b cl cr _ n x - rfl hfinite h
    obtain ⟨hf, he⟩ := classifyPattern_finite hfinite
    have hf' := classifyPattern_f_lt fmt b
    have lower := h.exponent_lower hf
    have scale := (romIndex_of_finite hfinite).2
    have significand := h.significand_lt hf hf'
    have value := h.ten_pow_lt hf' he
    refine ⟨lower, ?_, ?_⟩ <;> rintro rfl
    · have narrow : (n : ℚ) < (2 ^ 31 : Int) := significand.trans (by norm_num [Fmt.extPrecision, Fmt.precision])
      have large : (10 : ℚ) ^ x < 10 ^ (39 : Int) := by
        rw [show (Fmt.extPrecision .binary32 : Int) + Fmt.eMaxF .binary32 = 128 by decide] at value
        exact value.trans (by norm_num)
      have := (zpow_lt_zpow_iff_right₀ (by norm_num)).1 large
      simp only [Fmt.maxK] at scale
      exact ⟨by exact_mod_cast narrow, by omega, by omega⟩
    · have narrow : (n : ℚ) < (2 ^ 60 : Int) := significand.trans (by norm_num [Fmt.extPrecision, Fmt.precision])
      have large : (10 : ℚ) ^ x < 10 ^ (309 : Int) := by
        rw [show (Fmt.extPrecision .binary64 : Int) + Fmt.eMaxF .binary64 = 1024 by decide] at value
        have powers : 2 ^ 1024 < 10 ^ 309 := by decide +kernel
        exact value.trans (by exact_mod_cast powers)
      have := (zpow_lt_zpow_iff_right₀ (by norm_num)).1 large
      simp only [Fmt.maxK] at scale
      exact ⟨by exact_mod_cast narrow, by omega, by omega⟩

end Sys2Proof.Machine
end

section
/-! PROOFS. Runs with a quiet host (70_reset_and_hazards.md R395 to R397): the digit search until it settles, a conversion until
it completes, and that its result is that of the format, the mode and the pattern. -/

namespace Sys2Proof.Machine

open Sys2Proof

/-! ## Runs -/

/-- With a quiet host a run starts with the sequencer's step. -/
theorem run_succ {s t : State} (hquiet : s.env.inbox = []) (h : sequencerStep s = .next t) (k : Nat) :
    Host.Core.run Sys2Proof.core (k + 1) s = Host.Core.run Sys2Proof.core k t := by
  have first : Sys2Proof.core.step s = .next t := (step_of_quiet hquiet).trans h
  simp only [Host.Core.run, first]

/-- In IDLE nothing happens any more. -/
theorem run_of_idle {s : State} (hquiet : s.env.inbox = []) (hidle : s.seq = .idle) (k : Nat) :
    Host.Core.run Sys2Proof.core k s = .next s := by
  induction k with
  | zero => rfl
  | succ k ih => rw [run_succ hquiet (sequencerStep_of_idle hidle), ih]

/-- A run goes on with a run. -/
theorem run_add {s t : State} {k : Nat} (h : Host.Core.run Sys2Proof.core k s = .next t) (j : Nat) :
    Host.Core.run Sys2Proof.core (k + j) s = Host.Core.run Sys2Proof.core j t := by
  induction k generalizing s with
  | zero =>
    cases h
    rw [Nat.zero_add]
  | succ k ih =>
    rw [Nat.add_right_comm]
    simp only [Host.Core.run] at h ⊢
    split at h
    · next first => simpa only [first] using ih h
    · cases h
    · cases h

/-- A run that has reached IDLE stays there. -/
theorem run_of_le {s t : State} {k j : Nat} (h : Host.Core.run Sys2Proof.core k s = .next t) (hquiet : t.env.inbox = [])
    (hidle : t.seq = .idle) (hle : k ≤ j) : Host.Core.run Sys2Proof.core j s = .next t := by
  obtain ⟨i, rfl⟩ := Nat.exists_eq_add_of_le hle
  rw [run_add h, run_of_idle hquiet hidle]

/-- An edit of the bank that the sequencer does not see, a run does not see. -/
theorem run_edit {u : Bank → Bank} (hu : Unseen u id) {s t : State} {k : Nat} (hquiet : s.env.inbox = [])
    (h : Host.Core.run Sys2Proof.core k s = .next t) :
    Host.Core.run Sys2Proof.core k (edit u id s) = .next (edit u id t) := by
  induction k generalizing s with
  | zero =>
    cases h
    rfl
  | succ k ih =>
    cases hstep : sequencerStep s with
    | next s' =>
      rw [run_succ hquiet hstep] at h
      rw [run_succ (s := edit u id s) hquiet (sequencerStep_edit_next hu hstep)]
      exact ih (by rw [sequencerStep_inbox hstep, hquiet]) h
    | fault r =>
      have first : Sys2Proof.core.step s = .fault r := (step_of_quiet hquiet).trans hstep
      simp [Host.Core.run, first] at h
    | refused r =>
      have first : Sys2Proof.core.step s = .refused r := (step_of_quiet hquiet).trans hstep
      simp [Host.Core.run, first] at h

/-! ## The search (R257, R266) -/

/-- The steps of the search. -/
def SeqState.Searching (q : SeqState) : Prop := q = .cvInit ∨ q = .cvUp ∨ q = .cvDown

/-- A step of the search stays in it, or settles. -/
theorem search_step {fmt : Fmt} {rmode : RMode} {b : Word} {cl cr : Bool} {s : State} (h : Scaled fmt rmode b cl cr s)
    (hsearching : s.seq.Searching) :
    ∃ t, sequencerStep s = .next t ∧ GoesOn fmt rmode b s t ∧ (t.seq.Searching ∨ t.seq = .cvSettle) := by
  rcases hsearching with hseq | hseq | hseq
  · obtain ⟨t, hstep, hgoes, hup | hdown⟩ := cvInit_step h hseq
    · exact ⟨t, hstep, hgoes, .inl (.inr (.inl hup))⟩
    · exact ⟨t, hstep, hgoes, .inl (.inr (.inr hdown))⟩
  · obtain ⟨t, hstep, hgoes, hup | hsettle⟩ := cvUp_step h hseq
    · exact ⟨t, hstep, hgoes, .inl (.inr (.inl hup))⟩
    · exact ⟨t, hstep, hgoes, .inr hsettle⟩
  · obtain ⟨t, hstep, hgoes, hdown | hsettle⟩ := cvDown_step h hseq
    · exact ⟨t, hstep, hgoes, .inl (.inr (.inr hdown))⟩
    · exact ⟨t, hstep, hgoes, .inr hsettle⟩

/-- The search started in `s` has settled in `t`. -/
structure SettledFrom (fmt : Fmt) (rmode : RMode) (b : Word) (s t : State) : Prop where
  scaled : ∃ cl cr, Scaled fmt rmode b cl cr t
  bracket : BracketInv t
  seq : t.seq = .cvSettle
  scale : t.scale = s.scale
  cls : t.cls = s.cls
  bank : t.bank = s.bank
  latched : t.latched = s.latched

/-- The search settles, and leaves two steps of its measure. -/
theorem search_settles {fmt : Fmt} {rmode : RMode} {b : Word} {cl cr : Bool} {s : State} (h : Scaled fmt rmode b cl cr s)
    (hbracket : BracketInv s) (hsearching : s.seq.Searching) (hquiet : s.env.inbox = []) :
    ∃ n t, n + 2 ≤ stepsLeft s ∧ Host.Core.run Sys2Proof.core n s = .next t ∧ SettledFrom fmt rmode b s t := by
  obtain ⟨t, hstep, hgoes, hnext⟩ := search_step h hsearching
  have measure := hgoes.measure
  have hscale := hgoes.scale (by rcases hsearching with hseq | hseq | hseq <;> simp [hseq])
  rcases hnext with hsearching' | hsettle
  · obtain ⟨cl', cr', hscaled⟩ := hgoes.scaled
    obtain ⟨n, t', hn, hrun, hsettled⟩ :=
      search_settles hscaled (hgoes.bracket hbracket) hsearching' (by rw [hgoes.env, hquiet])
    refine ⟨n + 1, t', by omega, by rw [run_succ hquiet hstep, hrun], hsettled.scaled, hsettled.bracket, hsettled.seq, ?_, ?_,
      ?_, ?_⟩
    · rw [hsettled.scale, hscale]
    · rw [hsettled.cls, hgoes.cls]
    · rw [hsettled.bank, hgoes.bank]
    · rw [hsettled.latched, hgoes.latched]
  · have left := stepsLeft_of_settle hsettle
    exact ⟨1, t, by omega, run_succ hquiet hstep 0, hgoes.scaled, hgoes.bracket hbracket, hsettle, hscale, hgoes.cls,
      hgoes.bank, hgoes.latched⟩
termination_by stepsLeft s

theorem scaleRegs_injective {v w : ScaleValues} (h : scaleRegs v = scaleRegs w) : v = w := by
  obtain ⟨cl, cr, k0, beta, cent, z, delta⟩ := v
  obtain ⟨cl', cr', k0', beta', cent', z', delta'⟩ := w
  simpa [scaleRegs] using h

/-- Settles O55. -/
theorem searchSettlesOnGreatestKappa : Obligations.SearchSettlesOnGreatestKappa := by
  intro fmt rmode cpol b s v hinv hconvert hquiet hseq hv
  have hconverting : s.seq.converting = true := by rw [hseq]; rfl
  obtain ⟨cl, cr, hscaled⟩ := (hinv.runs hconvert hconverting).scaled (by simp [hseq])
  have hbracket : BracketInv s := (hscaled.bracket_iff hconverting (by simp [hseq])).2 (.of_init hseq)
  obtain ⟨n, t, hn, hrun, hsettled⟩ := search_settles hscaled hbracket (.inl hseq) hquiet
  obtain ⟨cl', cr', hscaled'⟩ := hsettled.scaled
  obtain rfl : v = patternScale fmt cl' cr' b := scaleRegs_injective (by rw [← hv, ← hsettled.scale, hscaled'.scale])
  obtain ⟨kq, hkq, -⟩ := hscaled'.search.settled (.inl hsettled.seq)
  obtain ⟨haccept, hgreatest⟩ := ((hscaled'.bracket_iff (by rw [hsettled.seq]; rfl) (by simp [hsettled.seq])).1
    hsettled.bracket).settled (.inl hsettled.seq) kq hkq
  refine ⟨n, t, kq, ?_, hrun, hsettled.seq, hkq, haccept, hgreatest, hsettled.scale, hsettled.cls, hsettled.bank,
    hsettled.latched⟩
  rw [stepsLeft_of_init hseq, hscaled.cmdFmt] at hn
  have steps := searchSteps_le fmt
  cases fmt with
  | binary32 => have := steps.2 rfl; exact (by omega : n ≤ 4)
  | binary64 => have := steps.1; exact (by omega : n ≤ 5)

/-! ## The conversion (R397) -/

/-- A running conversion completes within its measure, with a lawful result, and changes nothing else that a host reads. -/
theorem conversion_completes {fmt : Fmt} {rmode : RMode} {b : Word} {s : State} (h : Runs fmt rmode b s)
    (hbracket : BracketInv s) (hquiet : s.env.inbox = []) :
    ∃ k n x s', k ≤ stepsLeft s ∧
      Host.Core.run Sys2Proof.core k s = .next (convertCompletes n x (classifyPattern fmt b).sgn s') ∧
      LawfulResult fmt rmode b n x ∧ s'.bank = s.bank ∧ s'.latched = s.latched ∧ s'.env = s.env := by
  rcases convert_step_lawful h hbracket with ⟨t, hstep, hgoes⟩ | ⟨n, x, hstep, hlawful⟩
  · have measure := hgoes.measure
    obtain ⟨k, n, x, s', hk, hrun, hlawful, hbank, hlatched, henv⟩ :=
      conversion_completes hgoes.runs (hgoes.bracket hbracket) (by rw [hgoes.env, hquiet])
    refine ⟨k + 1, n, x, s', by omega, by rw [run_succ hquiet hstep, hrun], hlawful, ?_, ?_, ?_⟩
    · rw [hbank, hgoes.bank]
    · rw [hlatched, hgoes.latched]
    · rw [henv, hgoes.env]
  · exact ⟨1, n, x, s, stepsLeft_pos (busy_of_converting h.converting), run_succ hquiet hstep 0, hlawful, rfl, rfl, rfl⟩
termination_by stepsLeft s

def setCmd (v : Word) (b : Bank) : Bank := { b with cmd := v }

/-- The sequencer does not read `CMD`: it reads the latched word (R52). -/
theorem unseen_setCmd (v : Word) : Unseen (setCmd v) id := by constructor <;> intros <;> rfl

theorem edit_setCmd_edit (v : Word) (s : State) : edit (setCmd s.bank.cmd) id (edit (setCmd v) id s) = s := rfl

/-- The EXEC step of a ready CONVERT starts the conversion of its pattern (R325). -/
theorem ConvertReady.starts {fmt : Fmt} {rmode : RMode} {cpol : CasePolicy} {b : Word} {s : State}
    (h : ConvertReady fmt rmode cpol b s) (hcmd : s.bank.cmd = s.latched.lcmd.val) :
    ∃ t, sequencerStep s = .next t ∧ Runs fmt rmode b t ∧ BracketInv t ∧ t.seq = .cvScale ∧ t.bank = s.bank ∧
      t.latched = s.latched ∧ t.env = s.env := by
  obtain ⟨t, hexec, hseq, hcls, hbank, hlatched, -, -, -, henv⟩ :=
    convertClassifiesThenScales fmt rmode cpol s b h.operand h.mode h.fits h.finite
  obtain ⟨hfmt, hrmode, -⟩ := fields_of_decodeCmd_convert h.command
  have runs : Runs fmt rmode b t :=
    ⟨by rw [hseq]; rfl, ⟨by rw [hlatched, hfmt], by rw [hlatched, hrmode], by rw [hbank, hcmd, hfmt], h.mode, h.finite, hcls⟩,
      fun hpast => absurd hseq hpast⟩
  refine ⟨t, ?_, runs, fun _ hpast => absurd hseq hpast, hseq, hbank, hlatched, henv⟩
  rw [sequencerStep_of_exec h.seq, execStep_of_decodes h.command, hexec]

/-- A completed run of a ready CONVERT: within the bound, with a lawful result (R250, R397). -/
structure CompletesIn (fmt : Fmt) (rmode : RMode) (b : Word) (s : State) (k : Nat) (t : State) (n x : Int) : Prop where
  bound : k ≤ Fmt.searchSteps fmt + 5
  run : Host.Core.run Sys2Proof.core k s = .next t
  lawful : LawfulResult fmt rmode b n x
  bank : BankCompleted s t (BitVec.ofInt 64 n) (tc64 x) (bitWord (classifyPattern fmt b).sgn)
  env : t.env = s.env

/-- A ready CONVERT whose `CMD` is its latched word completes. -/
theorem ConvertReady.completes_of_cmd {fmt : Fmt} {rmode : RMode} {cpol : CasePolicy} {b : Word} {s : State}
    (h : ConvertReady fmt rmode cpol b s) (hcmd : s.bank.cmd = s.latched.lcmd.val) :
    ∃ k t n x, CompletesIn fmt rmode b s k t n x := by
  obtain ⟨t, hstep, hruns, hbracket, hseq, hbank, hlatched, henv⟩ := h.starts hcmd
  obtain ⟨k, n, x, s', hk, hrun, hlawful, hbank', hlatched', henv'⟩ :=
    conversion_completes hruns hbracket (by rw [henv, h.quiet])
  refine ⟨k + 1, _, n, x, ?_, by rw [run_succ h.quiet hstep, hrun], hlawful, ?_, ?_⟩
  · have left : stepsLeft t = Fmt.searchSteps fmt + 4 := by simp only [stepsLeft, hseq, hruns.classifies.cmdFmt]
    omega
  · constructor <;> simp [convertCompletes, writeSig, hbank', hbank, hlatched', hlatched]
  · exact henv'.trans henv

/-- A ready CONVERT completes, whatever `CMD` holds: the run does not see it. -/
theorem ConvertReady.completes {fmt : Fmt} {rmode : RMode} {cpol : CasePolicy} {b : Word} {s : State}
    (h : ConvertReady fmt rmode cpol b s) : ∃ k t n x, CompletesIn fmt rmode b s k t n x := by
  have ready : ConvertReady fmt rmode cpol b (edit (setCmd s.latched.lcmd.val) id s) :=
    ⟨h.quiet, h.seq, h.command, h.mode, h.operand, h.fits, h.finite⟩
  obtain ⟨k, t, n, x, bound, hrun, hlawful, hbank, henv⟩ := ready.completes_of_cmd rfl
  have hrun' := run_edit (unseen_setCmd s.bank.cmd) ready.quiet hrun
  rw [edit_setCmd_edit] at hrun'
  refine ⟨k, _, n, x, bound, hrun', hlawful, ?_, henv⟩
  obtain ⟨res0, res1, res2, busy, done, seq, fault, ovr, fcode, fop, -, opa, opb, opc, latched⟩ := hbank
  exact ⟨res0, res1, res2, busy, done, seq, fault, ovr, fcode, fop, rfl, opa, opb, opc, latched⟩

/-- Settles O56. -/
theorem convertMeetsResultLaw : Obligations.ConvertMeetsResultLaw := by
  rintro fmt rmode cpol b s _ h rfl
  obtain ⟨k, t, n, x, bound, hrun, hlawful, hbank, henv⟩ := h.completes
  obtain ⟨significand, exponent⟩ := hlawful.words
  obtain ⟨cl, cr, hpolicy, hlaw⟩ := hlawful.law
  refine ⟨k, t, _, _, _, cl, cr, ?_, hrun, hbank, henv, hpolicy, by rwa [significand, exponent], toNat_bitWord _⟩
  have steps := searchSteps_le fmt
  cases fmt with
  | binary32 => have := steps.2 rfl; exact (by omega : k ≤ 8)
  | binary64 => have := steps.1; exact (by omega : k ≤ 9)

/-- Settles O57: both results are lawful, and there is one lawful result; the shorter run waits in IDLE. -/
theorem resultDependsOnFormatPolicyPattern : Obligations.ResultDependsOnFormatPolicyPattern := by
  intro fmt rmode cpol cpol' b s s'
  constructor
  · intro t t' hinv hinv' hbracket hbracket' hconverting hconverting' hconvert hconvert' hstep hstep' hidle hidle'
    obtain ⟨n, x, rfl, hlawful⟩ := completion_lawful hinv hbracket hconvert hconverting hstep hidle
    obtain ⟨n', x', rfl, hlawful'⟩ := completion_lawful hinv' hbracket' hconvert' hconverting' hstep' hidle'
    obtain ⟨rfl, rfl⟩ := hlawful.unique hlawful'
    exact ⟨rfl, rfl, rfl⟩
  · intro h h'
    obtain ⟨k, t, n, x, -, hrun, hlawful, hbank, henv⟩ := h.completes
    obtain ⟨k', t', n', x', -, hrun', hlawful', hbank', henv'⟩ := h'.completes
    obtain ⟨rfl, rfl⟩ := hlawful.unique hlawful'
    refine ⟨max k k', t, t', run_of_le hrun (by rw [henv, h.quiet]) hbank.seq (le_max_left _ _),
      run_of_le hrun' (by rw [henv', h'.quiet]) hbank'.seq (le_max_right _ _), hbank.seq, hbank'.seq, ?_, ?_, ?_⟩
    · rw [hbank.res0, hbank'.res0]
    · rw [hbank.res1, hbank'.res1]
    · rw [hbank.res2, hbank'.res2]

end Sys2Proof.Machine
end
